-- ==== Sys2Proof/Word.lean ====
section
/-! DEFINITION. The fixed-width words of the core (spec 00_scope.md R7, R8): all of them unsigned. -/

namespace Sys2Proof

/-- A byte: a general register, a timer, a byte of memory, an immediate (R7). -/
abbrev Byte := BitVec 8

/-- A 16-bit word: `I`, `PC`, a return address, an instruction word (R7). -/
abbrev Word := BitVec 16

/-- A nibble: a 4-bit field of an instruction word, or a key value (R8, R42). -/
abbrev Nibble := BitVec 4

/-- The 12-bit address field of a format-A instruction (R73). -/
abbrev Addr := BitVec 12

/-- The index of a general register, 0 to 15 (R21). -/
abbrev Reg := Fin 16

end Sys2Proof
end

