-- ==== Sys2Proof/Syntax.lean ====
section
/-! DEFINITION. The 34 instructions of the core (spec 30_encoding.md R80), one constructor per row of the opcode table, in
the table's order. A constructor holds the fields the row populates (R71 to R77) and no ignored bit (R82): the words
0x00E0 and 0x0FE0 are the same instruction. -/

namespace Sys2Proof

/-- An instruction with its operand fields (R80). Register fields are register indexes, `kk` a byte, `addr` the 12 bits of a
format-A word; the row count `n` of `drw` is a count, bounded by `WellFormed`. -/
inductive Instr
  /-- `CLS` (R101) -/
  | cls
  /-- `RET` (R111) -/
  | ret
  /-- `JP addr` (R112) -/
  | jp (addr : Addr)
  /-- `CALL addr` (R113) -/
  | call (addr : Addr)
  /-- `SE Vx,kk` (R114) -/
  | seImm (x : Reg) (kk : Byte)
  /-- `SNE Vx,kk` (R115) -/
  | sneImm (x : Reg) (kk : Byte)
  /-- `SE Vx,Vy` (R116) -/
  | seReg (x y : Reg)
  /-- `LD Vx,kk` (R131) -/
  | ldImm (x : Reg) (kk : Byte)
  /-- `ADD Vx,kk` (R132) -/
  | addImm (x : Reg) (kk : Byte)
  /-- `LD Vx,Vy` (R133) -/
  | ldReg (x y : Reg)
  /-- `OR Vx,Vy` (R134) -/
  | orReg (x y : Reg)
  /-- `AND Vx,Vy` (R135) -/
  | andReg (x y : Reg)
  /-- `XOR Vx,Vy` (R136) -/
  | xorReg (x y : Reg)
  /-- `ADD Vx,Vy` (R137) -/
  | addReg (x y : Reg)
  /-- `SUB Vx,Vy` (R138) -/
  | subReg (x y : Reg)
  /-- `SHR Vx` (R139) -/
  | shr (x : Reg)
  /-- `SUBN Vx,Vy` (R140) -/
  | subnReg (x y : Reg)
  /-- `SHL Vx` (R141) -/
  | shl (x : Reg)
  /-- `SNE Vx,Vy` (R117) -/
  | sneReg (x y : Reg)
  /-- `LD I,addr` (R151) -/
  | ldI (addr : Addr)
  /-- `JP V0,addr` (R119) -/
  | jpV0 (addr : Addr)
  /-- `RND Vx,kk` (R170) -/
  | rnd (x : Reg) (kk : Byte)
  /-- `DRW Vx,Vy,n` (R102) -/
  | drw (x y : Reg) (n : Nat)
  /-- `SKP Vx` (R171) -/
  | skp (x : Reg)
  /-- `SKNP Vx` (R172) -/
  | sknp (x : Reg)
  /-- `LD Vx,DT` (R173) -/
  | ldFromDt (x : Reg)
  /-- `LD Vx,K` (R174) -/
  | ldKey (x : Reg)
  /-- `LD DT,Vx` (R175) -/
  | ldToDt (x : Reg)
  /-- `LD ST,Vx` (R176) -/
  | ldToSt (x : Reg)
  /-- `ADD I,Vx` (R152) -/
  | addI (x : Reg)
  /-- `LD F,Vx` (R153) -/
  | ldGlyph (x : Reg)
  /-- `LD B,Vx` (R154) -/
  | ldBcd (x : Reg)
  /-- `LD [I],Vx` (R156) -/
  | storeRegs (x : Reg)
  /-- `LD Vx,[I]` (R157) -/
  | loadRegs (x : Reg)
  deriving DecidableEq, Repr

end Sys2Proof
end

