-- ==== Sys2Proof/WellFormed.lean ====
section
/-! DEFINITION. Which terms of `Instr` are instructions of the core. The types bound every operand but one: the row count of
`DRW`, an unsigned count 0 to 15 (spec 30_encoding.md R77). -/

namespace Sys2Proof

/-- The operands are values their fields can hold (R71, R77). -/
def Instr.wellFormed : Instr → Bool
  | .cls | .ret => true
  | .jp _ | .call _ | .ldI _ | .jpV0 _ => true
  | .seImm _ _ | .sneImm _ _ | .ldImm _ _ | .addImm _ _ | .rnd _ _ => true
  | .seReg _ _ | .sneReg _ _ | .ldReg _ _ | .orReg _ _ | .andReg _ _ | .xorReg _ _ => true
  | .addReg _ _ | .subReg _ _ | .subnReg _ _ => true
  | .shr _ | .shl _ => true
  | .drw _ _ n => decide (n ≤ 15)
  | .skp _ | .sknp _ | .ldFromDt _ | .ldKey _ | .ldToDt _ | .ldToSt _ => true
  | .addI _ | .ldGlyph _ | .ldBcd _ | .storeRegs _ | .loadRegs _ => true

end Sys2Proof
end

