-- ==== Sys2Proof/Decode.lean ====
section
/-! DEFINITION. The instruction decoder (spec 30_encoding.md): the fields of a word (R71), decoding by leading nibble and
variant (R72 to R76, R80, R84), the opcode map itself (R80), and the encoder. -/

namespace Sys2Proof

/-! ### Fields (R71) -/

/-- `op`, the leading nibble `w[15:12]`. -/
def fieldOp (w : Word) : Nibble := w.extractLsb' 12 4

/-- `x`, the 2nd nibble `w[11:8]`, as a register index. -/
def fieldX (w : Word) : Reg := (w.extractLsb' 8 4).toFin

/-- `y`, the 3rd nibble `w[7:4]`, as a register index. -/
def fieldY (w : Word) : Reg := (w.extractLsb' 4 4).toFin

/-- The 4th nibble `w[3:0]`: the variant `v4` of groups 0x5, 0x8, 0x9, the row count `n` of group 0xD. -/
def fieldN (w : Word) : Nibble := w.extractLsb' 0 4

/-- The low byte `w[7:0]`: the immediate `kk`, or the variant `v8` of groups 0x0, 0xE, 0xF. -/
def fieldKk (w : Word) : Byte := w.extractLsb' 0 8

/-- `addr = w[11:0]`. -/
def fieldAddr (w : Word) : Addr := w.extractLsb' 0 12

/-! ### Decoding -/

/-- Why bytes are no instruction. -/
inductive DecodeError
  /-- There are fewer than the two bytes every instruction has (R70). -/
  | tooShort
  /-- The word matches no row of the opcode map (R84): the step that fetches it raises UnknownInstruction (R201). -/
  | unknownInstruction (w : Word)
  deriving DecidableEq, Repr

/-- `Decode(w)` (R80): total on all 65536 words, a function of the word alone (R70). The leading nibble selects the group; in
groups 0x0, 0xE and 0xF the low byte selects the instruction, in groups 0x5, 0x8 and 0x9 the 4th nibble does. Bits 11:8 of
`CLS` and `RET` and the `y` field of `SHR` and `SHL` are not looked at (R82). The
last arm is never taken: the sixteen nibbles are listed. -/
def decodeWord (w : Word) : Except DecodeError Instr :=
  match fieldOp w with
  | 0x0#4 =>
    match fieldKk w with
    | 0xE0#8 => .ok .cls
    | 0xEE#8 => .ok .ret
    | _ => .error (.unknownInstruction w)
  | 0x1#4 => .ok (.jp (fieldAddr w))
  | 0x2#4 => .ok (.call (fieldAddr w))
  | 0x3#4 => .ok (.seImm (fieldX w) (fieldKk w))
  | 0x4#4 => .ok (.sneImm (fieldX w) (fieldKk w))
  | 0x5#4 =>
    match fieldN w with
    | 0x0#4 => .ok (.seReg (fieldX w) (fieldY w))
    | _ => .error (.unknownInstruction w)
  | 0x6#4 => .ok (.ldImm (fieldX w) (fieldKk w))
  | 0x7#4 => .ok (.addImm (fieldX w) (fieldKk w))
  | 0x8#4 =>
    match fieldN w with
    | 0x0#4 => .ok (.ldReg (fieldX w) (fieldY w))
    | 0x1#4 => .ok (.orReg (fieldX w) (fieldY w))
    | 0x2#4 => .ok (.andReg (fieldX w) (fieldY w))
    | 0x3#4 => .ok (.xorReg (fieldX w) (fieldY w))
    | 0x4#4 => .ok (.addReg (fieldX w) (fieldY w))
    | 0x5#4 => .ok (.subReg (fieldX w) (fieldY w))
    | 0x6#4 => .ok (.shr (fieldX w))
    | 0x7#4 => .ok (.subnReg (fieldX w) (fieldY w))
    | 0xE#4 => .ok (.shl (fieldX w))
    | _ => .error (.unknownInstruction w)
  | 0x9#4 =>
    match fieldN w with
    | 0x0#4 => .ok (.sneReg (fieldX w) (fieldY w))
    | _ => .error (.unknownInstruction w)
  | 0xA#4 => .ok (.ldI (fieldAddr w))
  | 0xB#4 => .ok (.jpV0 (fieldAddr w))
  | 0xC#4 => .ok (.rnd (fieldX w) (fieldKk w))
  | 0xD#4 => .ok (.drw (fieldX w) (fieldY w) (fieldN w).toNat)
  | 0xE#4 =>
    match fieldKk w with
    | 0x9E#8 => .ok (.skp (fieldX w))
    | 0xA1#8 => .ok (.sknp (fieldX w))
    | _ => .error (.unknownInstruction w)
  | 0xF#4 =>
    match fieldKk w with
    | 0x07#8 => .ok (.ldFromDt (fieldX w))
    | 0x0A#8 => .ok (.ldKey (fieldX w))
    | 0x15#8 => .ok (.ldToDt (fieldX w))
    | 0x18#8 => .ok (.ldToSt (fieldX w))
    | 0x1E#8 => .ok (.addI (fieldX w))
    | 0x29#8 => .ok (.ldGlyph (fieldX w))
    | 0x33#8 => .ok (.ldBcd (fieldX w))
    | 0x55#8 => .ok (.storeRegs (fieldX w))
    | 0x65#8 => .ok (.loadRegs (fieldX w))
    | _ => .error (.unknownInstruction w)
  | _ => .error (.unknownInstruction w)

/-- The word two bytes make: the byte at the lower address is the high byte (R51, R55). -/
def wordOfBytes (hi lo : Byte) : Word := hi ++ lo

/-- The high byte of a word, the one stored at the lower address (R71). -/
def highByte (w : Word) : Byte := w.extractLsb' 8 8

/-- The low byte of a word, stored at the next address. -/
def lowByte (w : Word) : Byte := w.extractLsb' 0 8

/-- Decode the instruction at the front of a byte sequence: total, with the rest of the bytes (R70). -/
def decodeBytes : List Byte → Except DecodeError (Instr × List Byte)
  | hi :: lo :: rest =>
    match decodeWord (wordOfBytes hi lo) with
    | .ok i => .ok (i, rest)
    | .error e => .error e
  | _ => .error .tooShort

/-- What the decoder reads from an instruction whose first `nbits` bits, numbered as spec/opcode_table.json numbers them, are
`w`: every row has one 16-bit word, laid out high byte first (R70). -/
def decodeTableWord (nbits w : Nat) : Option Instr :=
  let word := BitVec.ofNat 16 (w % 2 ^ nbits)
  match decodeBytes [highByte word, lowByte word] with
  | .ok (i, _) => some i
  | .error _ => none

/-! ### The opcode map (R80) -/

/-- One row of the opcode map: the row is selected when `w AND mask = pattern`. -/
structure OpcodeRow where
  mnemonic : String
  mask : Word
  pattern : Word
  deriving DecidableEq, Repr

/-- `w AND mask = match` (R80). -/
def OpcodeRow.selects (r : OpcodeRow) (w : Word) : Bool := w &&& r.mask == r.pattern

/-- Rows 1 to 9 of R80. -/
def opcodeRowsFirst : List OpcodeRow :=
  [⟨"CLS", 0xF0FF, 0x00E0⟩, ⟨"RET", 0xF0FF, 0x00EE⟩, ⟨"JP addr", 0xF000, 0x1000⟩, ⟨"CALL addr", 0xF000, 0x2000⟩,
   ⟨"SE Vx,kk", 0xF000, 0x3000⟩, ⟨"SNE Vx,kk", 0xF000, 0x4000⟩, ⟨"SE Vx,Vy", 0xF00F, 0x5000⟩,
   ⟨"LD Vx,kk", 0xF000, 0x6000⟩, ⟨"ADD Vx,kk", 0xF000, 0x7000⟩]

/-- Rows 10 to 19 of R80. -/
def opcodeRowsRegister : List OpcodeRow :=
  [⟨"LD Vx,Vy", 0xF00F, 0x8000⟩, ⟨"OR Vx,Vy", 0xF00F, 0x8001⟩, ⟨"AND Vx,Vy", 0xF00F, 0x8002⟩,
   ⟨"XOR Vx,Vy", 0xF00F, 0x8003⟩, ⟨"ADD Vx,Vy", 0xF00F, 0x8004⟩, ⟨"SUB Vx,Vy", 0xF00F, 0x8005⟩,
   ⟨"SHR Vx", 0xF00F, 0x8006⟩, ⟨"SUBN Vx,Vy", 0xF00F, 0x8007⟩, ⟨"SHL Vx", 0xF00F, 0x800E⟩,
   ⟨"SNE Vx,Vy", 0xF00F, 0x9000⟩]

/-- Rows 20 to 34 of R80. -/
def opcodeRowsLast : List OpcodeRow :=
  [⟨"LD I,addr", 0xF000, 0xA000⟩, ⟨"JP V0,addr", 0xF000, 0xB000⟩, ⟨"RND Vx,kk", 0xF000, 0xC000⟩,
   ⟨"DRW Vx,Vy,n", 0xF000, 0xD000⟩, ⟨"SKP Vx", 0xF0FF, 0xE09E⟩, ⟨"SKNP Vx", 0xF0FF, 0xE0A1⟩,
   ⟨"LD Vx,DT", 0xF0FF, 0xF007⟩, ⟨"LD Vx,K", 0xF0FF, 0xF00A⟩, ⟨"LD DT,Vx", 0xF0FF, 0xF015⟩,
   ⟨"LD ST,Vx", 0xF0FF, 0xF018⟩, ⟨"ADD I,Vx", 0xF0FF, 0xF01E⟩, ⟨"LD F,Vx", 0xF0FF, 0xF029⟩,
   ⟨"LD B,Vx", 0xF0FF, 0xF033⟩, ⟨"LD [I],Vx", 0xF0FF, 0xF055⟩, ⟨"LD Vx,[I]", 0xF0FF, 0xF065⟩]

/-- The opcode map of R80, row for row. The decoder does not read it: that the two agree is a statement about both. -/
def opcodeTable : List OpcodeRow := opcodeRowsFirst ++ (opcodeRowsRegister ++ opcodeRowsLast)

/-- The mnemonic of an instruction, as the opcode map spells it (R80, R86). -/
def Instr.mnemonic : Instr → String
  | .cls => "CLS"
  | .ret => "RET"
  | .jp _ => "JP addr"
  | .call _ => "CALL addr"
  | .seImm _ _ => "SE Vx,kk"
  | .sneImm _ _ => "SNE Vx,kk"
  | .seReg _ _ => "SE Vx,Vy"
  | .ldImm _ _ => "LD Vx,kk"
  | .addImm _ _ => "ADD Vx,kk"
  | .ldReg _ _ => "LD Vx,Vy"
  | .orReg _ _ => "OR Vx,Vy"
  | .andReg _ _ => "AND Vx,Vy"
  | .xorReg _ _ => "XOR Vx,Vy"
  | .addReg _ _ => "ADD Vx,Vy"
  | .subReg _ _ => "SUB Vx,Vy"
  | .shr _ => "SHR Vx"
  | .subnReg _ _ => "SUBN Vx,Vy"
  | .shl _ => "SHL Vx"
  | .sneReg _ _ => "SNE Vx,Vy"
  | .ldI _ => "LD I,addr"
  | .jpV0 _ => "JP V0,addr"
  | .rnd _ _ => "RND Vx,kk"
  | .drw _ _ _ => "DRW Vx,Vy,n"
  | .skp _ => "SKP Vx"
  | .sknp _ => "SKNP Vx"
  | .ldFromDt _ => "LD Vx,DT"
  | .ldKey _ => "LD Vx,K"
  | .ldToDt _ => "LD DT,Vx"
  | .ldToSt _ => "LD ST,Vx"
  | .addI _ => "ADD I,Vx"
  | .ldGlyph _ => "LD F,Vx"
  | .ldBcd _ => "LD B,Vx"
  | .storeRegs _ => "LD [I],Vx"
  | .loadRegs _ => "LD Vx,[I]"

/-! ### Encoding -/

/-- A register index as the nibble that names it. -/
def regBits (r : Reg) : Nibble := BitVec.ofFin r

/-- Format A (R73). -/
def formatA (op : Nibble) (addr : Addr) : Word := op ++ addr

/-- Format XK (R74), and format XV (R76) with the variant in `kk`. -/
def formatXK (op : Nibble) (x : Reg) (kk : Byte) : Word := op ++ (regBits x ++ kk)

/-- Format XYN (R75). -/
def formatXYN (op : Nibble) (x y : Reg) (n : Nibble) : Word := op ++ (regBits x ++ (regBits y ++ n))

/-- The word of an instruction, with 0 in the ignored bits (R80, R82, R86). -/
def encode : Instr → Word
  | .cls => 0x00E0
  | .ret => 0x00EE
  | .jp addr => formatA 0x1 addr
  | .call addr => formatA 0x2 addr
  | .seImm x kk => formatXK 0x3 x kk
  | .sneImm x kk => formatXK 0x4 x kk
  | .seReg x y => formatXYN 0x5 x y 0x0
  | .ldImm x kk => formatXK 0x6 x kk
  | .addImm x kk => formatXK 0x7 x kk
  | .ldReg x y => formatXYN 0x8 x y 0x0
  | .orReg x y => formatXYN 0x8 x y 0x1
  | .andReg x y => formatXYN 0x8 x y 0x2
  | .xorReg x y => formatXYN 0x8 x y 0x3
  | .addReg x y => formatXYN 0x8 x y 0x4
  | .subReg x y => formatXYN 0x8 x y 0x5
  | .shr x => formatXYN 0x8 x 0 0x6
  | .subnReg x y => formatXYN 0x8 x y 0x7
  | .shl x => formatXYN 0x8 x 0 0xE
  | .sneReg x y => formatXYN 0x9 x y 0x0
  | .ldI addr => formatA 0xA addr
  | .jpV0 addr => formatA 0xB addr
  | .rnd x kk => formatXK 0xC x kk
  | .drw x y n => formatXYN 0xD x y (BitVec.ofNat 4 n)
  | .skp x => formatXK 0xE x 0x9E
  | .sknp x => formatXK 0xE x 0xA1
  | .ldFromDt x => formatXK 0xF x 0x07
  | .ldKey x => formatXK 0xF x 0x0A
  | .ldToDt x => formatXK 0xF x 0x15
  | .ldToSt x => formatXK 0xF x 0x18
  | .addI x => formatXK 0xF x 0x1E
  | .ldGlyph x => formatXK 0xF x 0x29
  | .ldBcd x => formatXK 0xF x 0x33
  | .storeRegs x => formatXK 0xF x 0x55
  | .loadRegs x => formatXK 0xF x 0x65

/-- The bytes of an instruction as memory holds them: high byte at the lower address (R55, R70). -/
def encodeBytes (i : Instr) : List Byte := [highByte (encode i), lowByte (encode i)]

end Sys2Proof
end

