-- ==== Sys2Proof/Config.lean ====
section
/-! DEFINITION. What is fixed for the machine (spec 00_scope.md R7), the default of the stack-size parameter, and the
free values: what the environment supplies under no law. -/

namespace Sys2Proof.Config

/-- MEM_SIZE: 4096 bytes, addresses 0x000 to 0xFFF (R7, R29). -/
abbrev memSize : Nat := 4096

/-- PROGRAM_BASE: where `load` puts the program and where `PC` starts (R7, R36, R41). -/
abbrev programBase : Nat := 0x200

/-- The length of the glyph region 0x000 to 0x04F (R7, R31). -/
abbrev glyphBytes : Nat := 80

/-- STACK_CAPACITY's default (R7, R26, decision D1). A run may have any other capacity: the capacity of a machine is the
number of slots its state holds, and no statement takes 16 for granted. -/
def defaultStackCapacity : Nat := 16

/-! ### Free values

Which key is down, which random byte arrives and how many ticks come between two steps are chosen by the environment
(R40, R170, R212, R215; 93_implementation_defined.md U1, U15). A run can name them, as the events in
`State.pending`. Where it names none, they are these constants, applied to the state's own counter of steps so
supplied: they have no body, so nothing can be proved of their values. -/

/-- The key input of the `n`-th step that no pending event supplies: no key, or any nibble (R42, R215). -/
opaque freeKey : Nat → Option Nibble

/-- The random byte of the `n`-th step that no pending event supplies: any byte (R42, R170). -/
opaque freeRnd : Nat → Byte

/-- How many `tick` events come just before the `n`-th step that no pending event supplies: any number (R40, R212). -/
opaque freeTicks : Nat → Nat

end Sys2Proof.Config
end

