-- ==== Sys2Proof/Machine/Glyphs.lean ====
section
/-! DEFINITION. The default of the parameter GLYPH_ROM (spec 10_state.md R31, decision D10): the 80 glyph bytes, the glyph of
digit `d` at `5 * d`. Another machine may have other glyphs: a state holds its own. -/

namespace Sys2Proof.Machine

/-- Digits 0 to 3 of R31's table. -/
def glyphs0To3 : Vector Byte 20 :=
  #v[0xF0, 0x90, 0x90, 0x90, 0xF0, 0x20, 0x60, 0x20, 0x20, 0x70,
     0xF0, 0x10, 0xF0, 0x80, 0xF0, 0xF0, 0x10, 0xF0, 0x10, 0xF0]

/-- Digits 4 to 7 of R31's table. -/
def glyphs4To7 : Vector Byte 20 :=
  #v[0x90, 0x90, 0xF0, 0x10, 0x10, 0xF0, 0x80, 0xF0, 0x10, 0xF0,
     0xF0, 0x80, 0xF0, 0x90, 0xF0, 0xF0, 0x10, 0x20, 0x40, 0x40]

/-- Digits 8 to B of R31's table. -/
def glyphs8ToB : Vector Byte 20 :=
  #v[0xF0, 0x90, 0xF0, 0x90, 0xF0, 0xF0, 0x90, 0xF0, 0x10, 0xF0,
     0xF0, 0x90, 0xF0, 0x90, 0x90, 0xE0, 0x90, 0xE0, 0x90, 0xE0]

/-- Digits C to F of R31's table. -/
def glyphsCToF : Vector Byte 20 :=
  #v[0xF0, 0x80, 0x80, 0x80, 0xF0, 0xE0, 0x90, 0x90, 0x90, 0xE0,
     0xF0, 0x80, 0xF0, 0x80, 0xF0, 0xF0, 0x80, 0xF0, 0x80, 0x80]

/-- The customary hexadecimal font, GLYPH_ROM's default (R31). -/
def defaultGlyphRom : Vector Byte Config.glyphBytes :=
  glyphs0To3 ++ glyphs4To7 ++ (glyphs8ToB ++ glyphsCToF)

end Sys2Proof.Machine
end

