-- ==== Sys2Proof/Machine/State.lean ====
section
/-! DEFINITION. The architectural state (spec 10_state.md R20), the events and inputs the environment supplies (R40 to R43), the
ways a step can stop, and the state after reset (R36). -/

namespace Sys2Proof.Machine

/-- The wait-for-key state (R33). -/
inductive Wait
  /-- Steps execute instructions. -/
  | running
  /-- A step waits for a key to put into register `t`, and executes nothing. -/
  | awaitingKey (t : Reg)
  deriving DecidableEq, Repr

/-- The fatal-error latch `FAULT` (R34, R200). -/
inductive FaultLatch
  /-- No fatal error. -/
  | none
  /-- A word that is no instruction was fetched: the `PC` it was fetched at and the word itself (R201). -/
  | unknownInstruction (pc word : Word)
  /-- `CALL` with a full stack (R202). -/
  | stackOverflow
  /-- `RET` with an empty stack (R203). -/
  | stackUnderflow
  deriving DecidableEq, Repr

/-- An event of the environment (R40). -/
inductive Event
  /-- Set every piece of state to its reset value (R36, R40). -/
  | reset
  /-- Copy a program into memory from 0x200 on (R41). -/
  | load (bytes : List Byte)
  /-- One step, with the current key if any and a random byte (R42). -/
  | step (key : Option Nibble) (rnd : Byte)
  /-- Count both timers down (R43, R211). -/
  | tick
  deriving DecidableEq, Repr

/-- Memory as plain data: the bytes that differ from the reset contents, by address (R29). `Memory.wf` is its canonical form. -/
abbrev Memory := List Host.Cell

/-- The frame buffer (R32): `FB[py][px]` is row `py`, column `px`; `true` is a set pixel. -/
abbrev FrameBuffer := Vector (Vector Bool 64) 32

/-- The whole state. The first group of fields is the spec's (R20); the others are the model's own: the parameters of R7, which no
step changes, and the environment of R40. -/
structure State where
  /-- General registers `V0` to `VF`; `VF` is also the flag (R21, R22). -/
  v : Vector Byte 16
  /-- Index register `I` (R23). -/
  i : Word
  /-- Program counter `PC` (R24, R25). -/
  pc : Word
  /-- The call stack's slots, `STACK[0]` first; their number is STACK_CAPACITY (R26). -/
  stack : List Word
  /-- Stack pointer `SP`: how many slots are in use (R26). -/
  sp : Nat
  /-- Delay timer `DT` (R28). -/
  dt : Byte
  /-- Sound timer `ST` (R28). -/
  st : Byte
  /-- Memory `MEM` (R29). -/
  mem : Memory
  /-- Frame buffer `FB` (R32). -/
  fb : FrameBuffer
  /-- Wait-for-key state `WAIT` (R33). -/
  wait : Wait
  /-- Fatal-error latch `FAULT` (R34). -/
  fault : FaultLatch
  /-- Model's own: the parameter GLYPH_ROM (R7, R31), the reset contents of 0x000 to 0x04F. -/
  glyphRom : Vector Byte Config.glyphBytes
  /-- Model's own: a `load` still has a meaning, that is, no `load` and no `step` has come since reset (R41, decision D21). -/
  canLoad : Bool
  /-- Model's own: the events the environment will supply, next one first (R40). Where none is left, the next step is one
  whose inputs are free. -/
  pending : List Event
  /-- Model's own: the `key` input of the step being executed (R42). -/
  key : Option Nibble
  /-- Model's own: the `rnd` input of the step being executed (R42). -/
  rnd : Byte
  /-- Model's own: how many steps had free inputs; each draws its free values at this number. -/
  draws : Nat
  deriving DecidableEq, Repr

/-- How a step can stop without a next state. The core's own fatal errors are none of these: they set `State.fault` and the
machine goes on, halted (R204, R208). -/
inductive Fault
  /-- Raised by `CALL` and `RET` in a state whose `SP` lies above STACK_CAPACITY, which R26 says no machine is in. Safe: the
  invariant `State.wf` rules such states out, so no run reaches it. -/
  | stackPointerOutOfRange
  deriving DecidableEq, Repr

/-- What the model gives no meaning. -/
inductive Refusal
  /-- An instruction whose meaning is not modelled; raised by `exec` alone. No instruction is left so. Safe. -/
  | notModelled (mnemonic : String)
  /-- A `load` event after a `load` or after the first `step`: "A model gives load at any other time no meaning (refuses it)" (R41;
  93_implementation_defined.md U10). Raised by the transition for a `load` event. Safe. -/
  | loadNotAllowed
  deriving DecidableEq, Repr

/-- The state after reset of a machine with the glyphs `rom` and `capacity` stack slots (R36). Memory lists nothing, so every
address reads as its reset content. -/
def State.resetWith (rom : Vector Byte Config.glyphBytes) (capacity : Nat) : State where
  v := Vector.replicate 16 0
  i := 0
  pc := 0x200
  stack := List.replicate capacity 0
  sp := 0
  dt := 0
  st := 0
  mem := []
  fb := Vector.replicate 32 (Vector.replicate 64 false)
  wait := .running
  fault := .none
  glyphRom := rom
  canLoad := true
  pending := []
  key := none
  rnd := 0
  draws := 0

/-- The machine right after reset (R36, R230), at the parameters' defaults (R7). -/
def State.reset : State := State.resetWith defaultGlyphRom Config.defaultStackCapacity

end Sys2Proof.Machine
end

