-- ==== Sys2Proof/Machine/Memory.lean ====
section
/-! DEFINITION. Memory as a sorted list of the bytes that differ from their reset content (spec 10_state.md R29, R31, R36;
20_memory.md R50 to R53), keyed by address. -/

namespace Sys2Proof.Machine

/-- What an unlisted address reads as: its reset content, the glyphs from 0x000 to 0x04F and zero above (R36, R58). -/
def Memory.unlisted (rom : Vector Byte Config.glyphBytes) (a : Nat) : Byte :=
  if h : a < Config.glyphBytes then rom[a] else 0

/-- The byte listed at an address. -/
def Memory.lookup (a : Nat) : Memory → Option Byte
  | [] => none
  | c :: m => if c.1 = a then some c.2 else Memory.lookup a m

/-- The byte at an address. -/
def Memory.read (rom : Vector Byte Config.glyphBytes) (m : Memory) (a : Nat) : Byte :=
  (Memory.lookup a m).getD (Memory.unlisted rom a)

/-- Unlist an address. -/
def Memory.unlist (a : Nat) : Memory → Memory
  | [] => []
  | c :: m => if c.1 = a then Memory.unlist a m else c :: Memory.unlist a m

/-- List a byte at an address that is not listed, in address order. -/
def Memory.place (a : Nat) (b : Byte) : Memory → Memory
  | [] => [(a, b)]
  | c :: m => if a < c.1 then (a, b) :: c :: m else c :: Memory.place a b m

/-- Store a byte at an address; a byte equal to the reset content is not listed. -/
def Memory.write (rom : Vector Byte Config.glyphBytes) (m : Memory) (a : Nat) (b : Byte) : Memory :=
  if b = Memory.unlisted rom a then Memory.unlist a m else Memory.place a b (Memory.unlist a m)

/-- The canonical form: addresses of the memory, strictly rising, none listed with its reset content. -/
abbrev Memory.wf (rom : Vector Byte Config.glyphBytes) (m : Memory) : Prop :=
  m.Pairwise (fun c d => c.1 < d.1) ∧ ∀ c ∈ m, c.1 < Config.memSize ∧ c.2 ≠ Memory.unlisted rom c.1

end Sys2Proof.Machine
end

