-- ==== Sys2Proof/Machine/Ops.lean ====
section
/-! DEFINITION. The named operations over registers, memory, stack, frame buffer and program counter; taking a fatal error and the
one way out of it; and the events `reset`, `load` and `tick`. -/

namespace Sys2Proof.Machine

/-! ### Registers (10_state.md R21 to R28) -/

/-- Read `V[x]` (R9, R21). -/
def State.getV (s : State) (x : Reg) : Byte := s.v[x]

/-- Write `V[x]`; no register is hardwired (R21). -/
def State.setV (s : State) (x : Reg) (b : Byte) : State := { s with v := s.v.set x b }

/-- `VF`, the flag register `V[15]` (R22). -/
abbrev vf : Reg := 15

/-- Write the result register first and `VF` last, so that the flag remains when the result register is `VF` (R10, R130). -/
def State.setVThenFlag (s : State) (x : Reg) (result flag : Byte) : State := (s.setV x result).setV vf flag

/-- Write `I` (R23). -/
def State.setI (s : State) (a : Word) : State := { s with i := a }

/-- Write `DT` (R28). -/
def State.setDt (s : State) (b : Byte) : State := { s with dt := b }

/-- Write `ST` (R28). -/
def State.setSt (s : State) (b : Byte) : State := { s with st := b }

/-- Write `WAIT` (R33). -/
def State.setWait (s : State) (w : Wait) : State := { s with wait := w }

/-! ### Memory (20_memory.md R52 to R55) -/

/-- The address that reaches memory: the port has 12 address lines (R52). -/
def portAddr (a : Word) : Nat := a.toNat % Config.memSize

/-- `MemRead(a, 1)` (R52): every address is readable. -/
def State.readByte (s : State) (a : Word) : Byte := Memory.read s.glyphRom s.mem (portAddr a)

/-- `MemWrite(a, 1, b)` (R53): every address is writable. -/
def State.writeByte (s : State) (a : Word) (b : Byte) : State :=
  { s with mem := Memory.write s.glyphRom s.mem (portAddr a) b }

/-- `Fetch(a)` (R55): the byte at `a` is the high byte, the byte at the next address the low one. -/
def State.fetchAt (s : State) (a : Word) : Word := wordOfBytes (s.readByte a) (s.readByte (a + 1))

/-- The word the next step fetches (R55). -/
def State.fetch (s : State) : Word := s.fetchAt s.pc

/-! ### The program-counter multiplexer (41_control_transfer.md R110) -/

/-- What an instruction hands to the multiplexer (R110). -/
inductive NextPc
  | advance
  | skip
  | setTo (a : Word)
  deriving DecidableEq, Repr

/-- The multiplexer's output, from the address of the executing instruction (R110, R25). -/
def NextPc.target (pc : Word) : NextPc → Word
  | .advance => pc + 2
  | .skip => pc + 4
  | .setTo a => a

/-- The policy of a compare-and-skip (R118). -/
def NextPc.skipWhen (c : Bool) : NextPc := if c then .skip else .advance

/-- Apply the policy (R42 step 6). -/
def State.goTo (s : State) (n : NextPc) : State := { s with pc := n.target s.pc }

/-- The end of an instruction that completes: its writes are done and the policy is applied (R42 step 6, R110). -/
def State.finish (s : State) (n : NextPc) : Host.Outcome State Fault Refusal := .next (s.goTo n)

/-! ### Fatal errors (60_exceptions.md R204, R208, R209) -/

/-- `raise` (R204): only the latch changes. -/
def State.raise (s : State) (f : FaultLatch) : State := { s with fault := f }

/-- Taking a fatal error: the entry is the halt, with the latch set; control goes nowhere (R204, R208). -/
def State.takeFault (s : State) (f : FaultLatch) : Host.Outcome State Fault Refusal := .next (s.raise f)

/-- The event `reset`, the only way out of the halted state (R40, R209): every piece of state takes its reset value (R36). The
parameters stay, and so does the environment. -/
def State.resetEvent (s : State) : State :=
  { State.resetWith s.glyphRom s.stack.length with
    pending := s.pending, key := s.key, rnd := s.rnd, draws := s.draws }

/-! ### The call stack (10_state.md R26, R27) -/

/-- STACK_CAPACITY of this machine (R26). -/
def State.stackCapacity (s : State) : Nat := s.stack.length

/-- The result of a stack operation. -/
inductive StackResult (α : Type)
  /-- It is done. -/
  | ok (a : α)
  /-- It raises a fatal error and writes nothing (R27). -/
  | raises (f : FaultLatch)
  /-- `SP` is above the capacity: no state of the machine (R26). -/
  | outOfRange
  deriving DecidableEq, Repr

/-- Write the slots and `SP` (R26). -/
def State.setStack (s : State) (stack : List Word) (sp : Nat) : State := { s with stack := stack, sp := sp }

/-- `Push(a)` (R27). -/
def State.push (s : State) (a : Word) : StackResult State :=
  if s.sp < s.stackCapacity then .ok (s.setStack (s.stack.set s.sp a) (s.sp + 1))
  else if s.sp = s.stackCapacity then .raises .stackOverflow
  else .outOfRange

/-- `Pop()` (R27): the slot keeps its value. -/
def State.pop (s : State) : StackResult (Word × State) :=
  if s.sp = 0 then .raises .stackUnderflow
  else
    match s.stack[s.sp - 1]? with
    | some a => .ok (a, s.setStack s.stack (s.sp - 1))
    | none => .outOfRange

/-! ### The frame buffer (10_state.md R32, 40_display.md R102) -/

/-- `FB[py][px]`, with both coordinates wrapped (R32, R102). -/
def FrameBuffer.pixel (fb : FrameBuffer) (px py : Nat) : Bool := fb[Fin.ofNat 32 py][Fin.ofNat 64 px]

/-- `FB[py][px] <- not FB[py][px]`, with both coordinates wrapped (R102). -/
def FrameBuffer.toggle (fb : FrameBuffer) (px py : Nat) : FrameBuffer :=
  fb.set (Fin.ofNat 32 py) (fb[Fin.ofNat 32 py].set (Fin.ofNat 64 px) (!fb.pixel px py))

/-- The cleared frame buffer (R101). -/
def FrameBuffer.clear : FrameBuffer := Vector.replicate 32 (Vector.replicate 64 false)

/-- A frame buffer being drawn on, with the collision found so far (R102). -/
structure Canvas where
  fb : FrameBuffer
  hit : Bool
  deriving DecidableEq, Repr

/-- One sprite bit at its pixel: a 0 leaves the pixel alone; a 1 toggles it, and hits if it was set (R102). -/
def Canvas.plot (c : Canvas) (px py : Nat) (bit : Bool) : Canvas :=
  if bit then { fb := c.fb.toggle px py, hit := c.hit || c.fb.pixel px py } else c

/-- One sprite row of 8 pixels, bit 7 leftmost, from column `x0` on in row `py` (R102). -/
def Canvas.plotRow (c : Canvas) (x0 py : Nat) (b : Byte) : Canvas :=
  (List.range 8).foldl (fun c k => c.plot (x0 + k) py (b.getLsbD (7 - k))) c

/-- A sprite, row by row, its row bytes in order, from row `y0` down (R102). -/
def Canvas.plotRows (c : Canvas) (x0 y0 : Nat) (rows : List Byte) : Canvas :=
  (List.range rows.length).foldl (fun c r => c.plotRow x0 (y0 + r) (rows.getD r 0)) c

/-- Write `FB` (R32). -/
def State.setFb (s : State) (fb : FrameBuffer) : State := { s with fb := fb }

/-! ### Timers (60_exceptions.md R211) -/

/-- A timer after `n` ticks: it counts down and stops at 0 (R28, R211). -/
def timerAfter (b : Byte) (n : Nat) : Byte := BitVec.ofNat 8 (b.toNat - n)

/-- `n` events `tick` in a row (R211): both timers count down, and nothing else changes. -/
def State.ticks (s : State) (n : Nat) : State := { s with dt := timerAfter s.dt n, st := timerAfter s.st n }

/-- The event `tick` (R43, R211). -/
def State.tick (s : State) : State :=
  { s with
    dt := if s.dt = 0 then s.dt else s.dt - 1
    st := if s.st = 0 then s.st else s.st - 1 }

/-! ### Loading a program (10_state.md R41) -/

/-- Copy bytes from address `a` on; a byte beyond 0xFFF is dropped (R41). -/
def Memory.copyFrom (rom : Vector Byte Config.glyphBytes) (m : Memory) (a : Nat) : List Byte → Memory
  | [] => m
  | b :: bs =>
    Memory.copyFrom rom (if a < Config.memSize then Memory.write rom m a b else m) (a + 1) bs

/-- The event `load` (R41), which closes the loading period (decision D21). -/
def State.loadEvent (s : State) (bytes : List Byte) : State :=
  { s with mem := Memory.copyFrom s.glyphRom s.mem Config.programBase bytes, canLoad := false }

/-! ### The inputs of a step (10_state.md R42) -/

/-- Supply a step's inputs; from the first step on, `load` has no meaning (R41, R42). -/
def State.supply (s : State) (key : Option Nibble) (rnd : Byte) : State :=
  { s with key := key, rnd := rnd, canLoad := false }

/-- A step that no pending event supplies: a free number of ticks comes first, and its inputs are free (R40). -/
def State.supplyFree (s : State) : State :=
  { (s.ticks (Config.freeTicks s.draws)).supply (Config.freeKey s.draws) (Config.freeRnd s.draws) with
    draws := s.draws + 1 }

/-- Take an event off the pending ones. -/
def State.consume (s : State) (rest : List Event) : State := { s with pending := rest }

end Sys2Proof.Machine
end

