-- ==== Sys2Proof/Machine/Operands.lean ====
section
/-! DEFINITION. Operand forms (spec 00_scope.md R11, 30_encoding.md R77): registers by index, an immediate byte, a 12-bit address, a
row count, memory at `I` plus an offset, the decimal digits of a byte, the glyph address of a digit, and the key. -/

namespace Sys2Proof.Machine

/-- `zext_16(addr)` (R77). -/
def addrWord (addr : Addr) : Word := addr.setWidth 16

/-- `zext_16` of a byte (R8). -/
def byteWord (b : Byte) : Word := b.setWidth 16

/-- `zext_8` of a key (R8). -/
def keyByte (k : Nibble) : Byte := k.setWidth 8

/-- The address of `Memory[I..]` at offset `k`: `(I + k) mod 65536` (R54). -/
def State.indexAddr (s : State) (k : Nat) : Word := s.i + BitVec.ofNat 16 k

/-- The bytes at `I`, `I + 1`, ..., `n` of them (R54). -/
def State.indexBytes (s : State) (n : Nat) : List Byte := (List.range n).map fun k => s.readByte (s.indexAddr k)

/-- The register that the block transfers pair with offset `k` (R51). -/
def blockReg (k : Nat) : Reg := Fin.ofNat 16 k

/-- Store `V[0]` to `V[n-1]` at `I`, `I + 1`, ..., in that order (R156). -/
def State.storeBlock (s : State) (n : Nat) : State :=
  (List.range n).foldl (fun t k => t.writeByte (t.indexAddr k) (t.getV (blockReg k))) s

/-- Load `V[0]` to `V[n-1]` from `I`, `I + 1`, ..., in that order (R157). -/
def State.loadBlock (s : State) (n : Nat) : State :=
  (List.range n).foldl (fun t k => t.setV (blockReg k) (t.readByte (t.indexAddr k))) s

/-- The hundreds digit of a byte (R154). -/
def hundreds (b : Byte) : Byte := BitVec.ofNat 8 (b.toNat / 100)

/-- The tens digit of a byte (R154). -/
def tens (b : Byte) : Byte := BitVec.ofNat 8 (b.toNat / 10 % 10)

/-- The units digit of a byte (R154). -/
def units (b : Byte) : Byte := BitVec.ofNat 8 (b.toNat % 10)

/-- Store the three decimal digits of a byte at `I`, `I + 1`, `I + 2`, in that order (R154). -/
def State.storeDigits (s : State) (b : Byte) : State :=
  let s1 := s.writeByte (s.indexAddr 0) (hundreds b)
  let s2 := s1.writeByte (s1.indexAddr 1) (tens b)
  s2.writeByte (s2.indexAddr 2) (units b)

/-- The address of the glyph a byte names, not masked to a digit (R153). -/
def glyphAddr (b : Byte) : Word := byteWord b * 5

/-- The current key is the one `V[x]` names; all 8 bits of `V[x]` take part (R171). -/
def State.keyIs (s : State) (x : Reg) : Bool :=
  match s.key with
  | some k => keyByte k == s.getV x
  | none => false

end Sys2Proof.Machine
end

