-- ==== Sys2Proof/Machine/Flags.lean ====
section
/-! DEFINITION. The arithmetic and the flag values of the ALU (spec 42_alu.md R142) and the collision flag (40_display.md R102). A
flag is always 0 or 1 (10_state.md R22). -/

namespace Sys2Proof.Machine

/-- A flag as `VF` holds it (R22). -/
def flagByte (b : Bool) : Byte := if b then 1 else 0

/-- The 9-bit sum of two bytes (R137). -/
def sum9 (a b : Byte) : BitVec 9 := a.setWidth 9 + b.setWidth 9

/-- The sum's low 8 bits (R137, R142). -/
def sumByte (a b : Byte) : Byte := (sum9 a b).extractLsb' 0 8

/-- The carry, bit 8 of the 9-bit sum (R137, R142). -/
def carryFlag (a b : Byte) : Byte := flagByte ((sum9 a b).getLsbD 8)

/-- `(a - b) mod 256` (R142). -/
def diffByte (a b : Byte) : Byte := a - b

/-- 1 when `a - b` needs no borrow, that is `a >= b` (R138, R142). -/
def noBorrowFlag (a b : Byte) : Byte := flagByte (decide (b.toNat ≤ a.toNat))

/-- `a >> 1`, logical (R139). -/
def shrByte (a : Byte) : Byte := a >>> 1

/-- The bit `SHR` shifts out (R139). -/
def shrFlag (a : Byte) : Byte := flagByte (a.getLsbD 0)

/-- `(a << 1) mod 256` (R141). -/
def shlByte (a : Byte) : Byte := a <<< 1

/-- The bit `SHL` shifts out, as 0 or 1 (R141). -/
def shlFlag (a : Byte) : Byte := flagByte (a.getLsbD 7)

/-- 1 when a drawing hit a set pixel (R102). -/
def Canvas.collisionFlag (c : Canvas) : Byte := flagByte c.hit

end Sys2Proof.Machine
end

