-- ==== Sys2Proof/Machine/Alu.lean ====
section
/-! DEFINITION. Register loads and the ALU instructions (spec 42_alu.md). Operands are read from the state at the start of the
step; a flag is written after the result (R10, R130). -/

namespace Sys2Proof.Machine

/-- `LD Vx,kk` (R131). -/
def execLdImm (x : Reg) (kk : Byte) (s : State) : Host.Outcome State Fault Refusal := (s.setV x kk).finish .advance

/-- `ADD Vx,kk` (R132): no flag. -/
def execAddImm (x : Reg) (kk : Byte) (s : State) : Host.Outcome State Fault Refusal :=
  (s.setV x (sumByte (s.getV x) kk)).finish .advance

/-- `LD Vx,Vy` (R133). -/
def execLdReg (x y : Reg) (s : State) : Host.Outcome State Fault Refusal := (s.setV x (s.getV y)).finish .advance

/-- `OR Vx,Vy` (R134). -/
def execOrReg (x y : Reg) (s : State) : Host.Outcome State Fault Refusal :=
  (s.setV x (s.getV x ||| s.getV y)).finish .advance

/-- `AND Vx,Vy` (R135). -/
def execAndReg (x y : Reg) (s : State) : Host.Outcome State Fault Refusal :=
  (s.setV x (s.getV x &&& s.getV y)).finish .advance

/-- `XOR Vx,Vy` (R136). -/
def execXorReg (x y : Reg) (s : State) : Host.Outcome State Fault Refusal :=
  (s.setV x (s.getV x ^^^ s.getV y)).finish .advance

/-- `ADD Vx,Vy` (R137). -/
def execAddReg (x y : Reg) (s : State) : Host.Outcome State Fault Refusal :=
  (s.setVThenFlag x (sumByte (s.getV x) (s.getV y)) (carryFlag (s.getV x) (s.getV y))).finish .advance

/-- `SUB Vx,Vy` (R138). -/
def execSubReg (x y : Reg) (s : State) : Host.Outcome State Fault Refusal :=
  (s.setVThenFlag x (diffByte (s.getV x) (s.getV y)) (noBorrowFlag (s.getV x) (s.getV y))).finish .advance

/-- `SHR Vx` (R139). -/
def execShr (x : Reg) (s : State) : Host.Outcome State Fault Refusal :=
  (s.setVThenFlag x (shrByte (s.getV x)) (shrFlag (s.getV x))).finish .advance

/-- `SUBN Vx,Vy` (R140): the operands of `SUB` exchanged. -/
def execSubnReg (x y : Reg) (s : State) : Host.Outcome State Fault Refusal :=
  (s.setVThenFlag x (diffByte (s.getV y) (s.getV x)) (noBorrowFlag (s.getV y) (s.getV x))).finish .advance

/-- `SHL Vx` (R141). -/
def execShl (x : Reg) (s : State) : Host.Outcome State Fault Refusal :=
  (s.setVThenFlag x (shlByte (s.getV x)) (shlFlag (s.getV x))).finish .advance

end Sys2Proof.Machine
end

