-- ==== Sys2Proof/Machine/Control.lean ====
section
/-! DEFINITION. Control transfer: return, jumps, call, compare-and-skip (spec 41_control_transfer.md). -/

namespace Sys2Proof.Machine

/-- `RET` (R111). -/
def execRet (s : State) : Host.Outcome State Fault Refusal :=
  match s.pop with
  | .ok (a, t) => t.finish (.setTo a)
  | .raises f => s.takeFault f
  | .outOfRange => .fault .stackPointerOutOfRange

/-- `JP addr` (R112). -/
def execJp (addr : Addr) (s : State) : Host.Outcome State Fault Refusal := s.finish (.setTo (addrWord addr))

/-- `CALL addr` (R113): the address after this instruction is pushed. -/
def execCall (addr : Addr) (s : State) : Host.Outcome State Fault Refusal :=
  match s.push (NextPc.advance.target s.pc) with
  | .ok t => t.finish (.setTo (addrWord addr))
  | .raises f => s.takeFault f
  | .outOfRange => .fault .stackPointerOutOfRange

/-- `JP V0,addr` (R119): the sum is not reduced to 12 bits. -/
def execJpV0 (addr : Addr) (s : State) : Host.Outcome State Fault Refusal :=
  s.finish (.setTo (byteWord (s.getV 0) + addrWord addr))

/-- `SE Vx,kk` (R114). -/
def execSeImm (x : Reg) (kk : Byte) (s : State) : Host.Outcome State Fault Refusal :=
  s.finish (.skipWhen (s.getV x == kk))

/-- `SNE Vx,kk` (R115). -/
def execSneImm (x : Reg) (kk : Byte) (s : State) : Host.Outcome State Fault Refusal :=
  s.finish (.skipWhen (s.getV x != kk))

/-- `SE Vx,Vy` (R116). -/
def execSeReg (x y : Reg) (s : State) : Host.Outcome State Fault Refusal :=
  s.finish (.skipWhen (s.getV x == s.getV y))

/-- `SNE Vx,Vy` (R117). -/
def execSneReg (x y : Reg) (s : State) : Host.Outcome State Fault Refusal :=
  s.finish (.skipWhen (s.getV x != s.getV y))

end Sys2Proof.Machine
end

