-- ==== Sys2Proof/Machine/Devices.lean ====
section
/-! DEFINITION. The random number, keypad and timer instructions (spec 44_keypad_timer_random.md), and what the environment reads of
the core between events (60_exceptions.md R217 to R219, R205). -/

namespace Sys2Proof.Machine

/-- `RND Vx,kk` (R170): the step's random byte under a mask. -/
def execRnd (x : Reg) (kk : Byte) (s : State) : Host.Outcome State Fault Refusal :=
  (s.setV x (s.rnd &&& kk)).finish .advance

/-- `SKP Vx` (R171). -/
def execSkp (x : Reg) (s : State) : Host.Outcome State Fault Refusal := s.finish (.skipWhen (s.keyIs x))

/-- `SKNP Vx` (R172). -/
def execSknp (x : Reg) (s : State) : Host.Outcome State Fault Refusal := s.finish (.skipWhen (!s.keyIs x))

/-- `LD Vx,DT` (R173). -/
def execLdFromDt (x : Reg) (s : State) : Host.Outcome State Fault Refusal := (s.setV x s.dt).finish .advance

/-- `LD Vx,K` (R174): enter the wait; this step does not look at its key. -/
def execLdKey (x : Reg) (s : State) : Host.Outcome State Fault Refusal := (s.setWait (.awaitingKey x)).finish .advance

/-- `LD DT,Vx` (R175). -/
def execLdToDt (x : Reg) (s : State) : Host.Outcome State Fault Refusal := (s.setDt (s.getV x)).finish .advance

/-- `LD ST,Vx` (R176). -/
def execLdToSt (x : Reg) (s : State) : Host.Outcome State Fault Refusal := (s.setSt (s.getV x)).finish .advance

/-- A step taken while a key is awaited in `V[t]` (R42 step 2, R174): a key ends the wait; nothing is fetched. -/
def State.awaitKey (s : State) (t : Reg) : State :=
  match s.key with
  | some k => (s.setV t (keyByte k)).setWait .running
  | none => s

/-! ### Outputs -/

/-- The display output: all 2048 pixels (R217). -/
def State.display (s : State) : FrameBuffer := s.fb

/-- The buzzer output (R218). -/
def State.buzzer (s : State) : Bool := decide (0 < s.st.toNat)

/-- The fault output (R219). -/
def State.faultOutput (s : State) : FaultLatch := s.fault

/-- The cause code of a fatal error (R205). -/
def FaultLatch.code : FaultLatch → Nat
  | .none => 0
  | .unknownInstruction _ _ => 1
  | .stackOverflow => 2
  | .stackUnderflow => 3

/-- The core is halted: its fatal-error latch is set (R12, R208). -/
def State.halted (s : State) : Bool := s.fault != .none

end Sys2Proof.Machine
end

