-- ==== Sys2Proof/Machine/Display.lean ====
section
/-! DEFINITION. The display instructions `CLS` and `DRW` (spec 40_display.md). -/

namespace Sys2Proof.Machine

/-- `CLS` (R101). -/
def execCls (s : State) : Host.Outcome State Fault Refusal := (s.setFb FrameBuffer.clear).finish .advance

/-- The drawing `DRW Vx,Vy,n` makes: the rows are the bytes at `I`, the origin is the old `V[x]` and `V[y]` (R102). -/
def State.sprite (s : State) (x y : Reg) (n : Nat) : Canvas :=
  Canvas.plotRows { fb := s.fb, hit := false } (s.getV x).toNat (s.getV y).toNat (s.indexBytes n)

/-- `DRW Vx,Vy,n` (R102): the coordinates and the row bytes are read before `VF` is written. -/
def execDrw (x y : Reg) (n : Nat) (s : State) : Host.Outcome State Fault Refusal :=
  ((s.setFb (s.sprite x y n).fb).setV vf (s.sprite x y n).collisionFlag).finish .advance

end Sys2Proof.Machine
end

