-- ==== Sys2Proof/Machine/Index.lean ====
section
/-! DEFINITION. The index register and the memory instructions (spec 43_index_memory.md). None of them changes `I` by accessing
memory (R150). -/

namespace Sys2Proof.Machine

/-- `LD I,addr` (R151). -/
def execLdI (addr : Addr) (s : State) : Host.Outcome State Fault Refusal := (s.setI (addrWord addr)).finish .advance

/-- `ADD I,Vx` (R152): modulo 65536, no flag. -/
def execAddI (x : Reg) (s : State) : Host.Outcome State Fault Refusal :=
  (s.setI (s.i + byteWord (s.getV x))).finish .advance

/-- `LD F,Vx` (R153). -/
def execLdGlyph (x : Reg) (s : State) : Host.Outcome State Fault Refusal :=
  (s.setI (glyphAddr (s.getV x))).finish .advance

/-- `LD B,Vx` (R154). -/
def execLdBcd (x : Reg) (s : State) : Host.Outcome State Fault Refusal := (s.storeDigits (s.getV x)).finish .advance

/-- `LD [I],Vx` (R156): `x + 1` registers. -/
def execStoreRegs (x : Reg) (s : State) : Host.Outcome State Fault Refusal := (s.storeBlock (x.val + 1)).finish .advance

/-- `LD Vx,[I]` (R157): `x + 1` registers. -/
def execLoadRegs (x : Reg) (s : State) : Host.Outcome State Fault Refusal := (s.loadBlock (x.val + 1)).finish .advance

end Sys2Proof.Machine
end

