-- ==== Sys2Proof/Machine/Cycle.lean ====
section
/-! DEFINITION. One event of the core (spec 10_state.md R40 to R43): the step with its inputs supplied, and the choice of the event. -/

namespace Sys2Proof.Machine

/-- The event `step` once its inputs are supplied (R42): halted, it does nothing; awaiting a key, it only looks for one; else it
fetches, decodes and executes, and a word that is no instruction is a fatal error. -/
def State.runStep (s : State) : Host.Outcome State Fault Refusal :=
  match s.fault with
  | .none =>
    match s.wait with
    | .awaitingKey t => .next (s.awaitKey t)
    | .running =>
      match decodeWord s.fetch with
      | .ok i => exec i s
      | .error _ => s.takeFault (.unknownInstruction s.pc s.fetch)
  | _ => .next s

/-- The event `load` (R41): refused once a `load` or a step has come since reset. -/
def State.tryLoad (s : State) (bytes : List Byte) : Host.Outcome State Fault Refusal :=
  if s.canLoad then .next (s.loadEvent bytes) else .refused .loadNotAllowed

/-- One event (R40): the next pending one, or, when none is pending, a step whose inputs are free. -/
def State.transition (s : State) : Host.Outcome State Fault Refusal :=
  match s.pending with
  | [] => s.supplyFree.runStep
  | .reset :: rest => .next (s.consume rest).resetEvent
  | .load bytes :: rest => (s.consume rest).tryLoad bytes
  | .step key rnd :: rest => ((s.consume rest).supply key rnd).runStep
  | .tick :: rest => .next (s.consume rest).tick

/-- The events up to the next step taken off, so that a step comes next. -/
def skipToStep : List Event → List Event
  | [] => []
  | .step key rnd :: rest => .step key rnd :: rest
  | _ :: rest => skipToStep rest

/-- A 16-bit instruction placed where the next step fetches, which is then neither halted nor awaiting a key, and is the next
event: what a load of that instruction at `PC` from outside the machine would do. -/
def State.placeInstr (s : State) (w : Word) : State :=
  { ((s.writeByte s.pc (highByte w)).writeByte (s.pc + 1) (lowByte w)) with
    fault := .none, wait := .running, pending := skipToStep s.pending }

end Sys2Proof.Machine
end

