-- ==== Sys2Proof/Machine/Step.lean ====
section
/-! DEFINITION. The machine's step, and an instruction placed where it fetches. -/

namespace Sys2Proof.Machine

/-- One transition of the machine: one event (spec 10_state.md R40), or, when no event is pending, a free number of ticks and a
step with free inputs. -/
def step (s : State) : Host.Outcome State Fault Refusal := s.transition

/-- The state in which the next step fetches and runs the instruction whose first `nbits` bits, numbered as
spec/opcode_table.json numbers them, are `w`. -/
def State.withFetchWord (s : State) (nbits w : Nat) : State := s.placeInstr (BitVec.ofNat 16 (w % 2 ^ nbits))

end Sys2Proof.Machine
end

