-- ==== Sys2Proof/Safety.lean ====
section
/-! DEFINITION. The terms claims use: the invariants of the machine (spec 10_state.md R26, R29, R33, R34), the parts of the state and
which of them a claim lets change (R20), and the pixels a sprite covers (40_display.md R103). -/

namespace Sys2Proof.Machine

/-! ### Invariants -/

/-- The shape of the state: memory is canonical, `SP` is between 0 and STACK_CAPACITY, and STACK_CAPACITY is positive (R26, R29;
decision D1). -/
def State.wf (s : State) : Prop :=
  Memory.wf s.glyphRom s.mem ∧ s.sp ≤ s.stackCapacity ∧ 0 < s.stackCapacity

/-- The control state tells the truth (R34, R41, R204, R206): while `load` has a meaning nothing has run; a halted core is not
awaiting a key; and a fatal error's cause is still there to be read: `PC` holds the address of the faulting word. -/
structure State.latched (s : State) : Prop where
  fresh : s.canLoad = true → s.fault = .none ∧ s.wait = .running
  notAwaiting : s.fault ≠ .none → s.wait = .running
  unknown : ∀ pc w, s.fault = .unknownInstruction pc w →
    pc = s.pc ∧ w = s.fetch ∧ decodeWord w = .error (.unknownInstruction w)
  overflow : s.fault = .stackOverflow → (∃ addr, decodeWord s.fetch = .ok (.call addr)) ∧ s.sp = s.stackCapacity
  underflow : s.fault = .stackUnderflow → decodeWord s.fetch = .ok .ret ∧ s.sp = 0

/-! ### Frames -/

/-- The parts of the architectural state but `PC` (R20). Memory is taken byte by byte, registers one by one. -/
inductive Part
  | reg (r : Reg)
  | index
  | stack
  | delayTimer
  | soundTimer
  | byte (a : Word)
  | display
  | wait
  | fault

/-- A part holds the same in two states; a byte of memory is what reading its address gives. -/
def Part.same : Part → State → State → Prop
  | .reg r, s, t => t.getV r = s.getV r
  | .index, s, t => t.i = s.i
  | .stack, s, t => t.stack = s.stack ∧ t.sp = s.sp
  | .delayTimer, s, t => t.dt = s.dt
  | .soundTimer, s, t => t.st = s.st
  | .byte a, s, t => t.readByte a = s.readByte a
  | .display, s, t => t.fb = s.fb
  | .wait, s, t => t.wait = s.wait
  | .fault, s, t => t.fault = s.fault

/-- The model's own fields are the same: parameters, pending events, inputs. -/
def SameModelFields (s t : State) : Prop :=
  t.glyphRom = s.glyphRom ∧ t.canLoad = s.canLoad ∧ t.pending = s.pending ∧ t.key = s.key ∧ t.rnd = s.rnd ∧
    t.draws = s.draws

/-- From `s` to `t` every part is the same but those `written` names; nothing is said of `PC` and the model's own fields. -/
def KeepsPartsBut (written : Part → Prop) (s t : State) : Prop := ∀ p, ¬ written p → p.same s t

/-- From `s` to `t` every part but those `written` names, and every field of the model's own, is the same; nothing is said of
`PC`. -/
def ChangesOnly (written : Part → Prop) (s t : State) : Prop := SameModelFields s t ∧ KeepsPartsBut written s t

/-- Only `PC` may change. -/
def ChangesOnlyPc (s t : State) : Prop := ChangesOnly (fun _ => False) s t

/-- The bytes a store of `n` bytes at `I` goes to: the addresses that reach memory at `I + k` for some `k` below `n` (R54). -/
def Part.inBlock (s : State) (n : Nat) : Part → Prop
  | .byte a => ∃ k < n, portAddr a = portAddr (s.indexAddr k)
  | _ => False

/-- A key is down and it is the one `V[x]` names, all 8 bits compared (R171). -/
def State.keyNamedBy (s : State) (x : Reg) : Prop := ∃ k, s.key = some k ∧ k.toNat = (s.getV x).toNat

end Sys2Proof.Machine

/-! ### What instructions may write -/

namespace Sys2Proof

open Sys2Proof.Machine

/-- What the rules let an instruction write, `PC` apart, in the state it starts from: the lists of R22 (`VF`), R23 (`I`), R26 (stack),
R28 (timers), R32 (display), R33 (`WAIT`), R34 (`FAULT`) and R65 (memory), with each instruction's own destination. -/
def Instr.writes (s : State) (i : Instr) (p : Part) : Prop :=
  match i with
  | .cls => p = .display
  | .ret => p = .stack ∨ p = .fault
  | .call _ => p = .stack ∨ p = .fault
  | .jp _ | .jpV0 _ => False
  | .seImm _ _ | .sneImm _ _ | .seReg _ _ | .sneReg _ _ | .skp _ | .sknp _ => False
  | .ldImm x _ | .addImm x _ | .ldReg x _ | .orReg x _ | .andReg x _ | .xorReg x _ => p = .reg x
  | .addReg x _ | .subReg x _ | .shr x | .subnReg x _ | .shl x => p = .reg x ∨ p = .reg vf
  | .ldI _ | .addI _ | .ldGlyph _ => p = .index
  | .rnd x _ | .ldFromDt x => p = .reg x
  | .drw _ _ _ => p = .display ∨ p = .reg vf
  | .ldKey _ => p = .wait
  | .ldToDt _ => p = .delayTimer
  | .ldToSt _ => p = .soundTimer
  | .ldBcd _ => p.inBlock s 3
  | .storeRegs x => p.inBlock s (x.val + 1)
  | .loadRegs x => ∃ r, r ≤ x ∧ p = .reg r

/-- The six instructions that write `VF` as a flag (R22). -/
def Instr.producesFlag : Instr → Bool
  | .addReg _ _ | .subReg _ _ | .shr _ | .subnReg _ _ | .shl _ | .drw _ _ _ => true
  | .cls | .ret | .jp _ | .call _ | .seImm _ _ | .sneImm _ _ | .seReg _ _ | .ldImm _ _ | .addImm _ _ => false
  | .ldReg _ _ | .orReg _ _ | .andReg _ _ | .xorReg _ _ | .sneReg _ _ | .ldI _ | .jpV0 _ | .rnd _ _ => false
  | .skp _ | .sknp _ | .ldFromDt _ | .ldKey _ | .ldToDt _ | .ldToSt _ | .addI _ | .ldGlyph _ | .ldBcd _ => false
  | .storeRegs _ | .loadRegs _ => false

/-- The instruction names `V[r]` as a destination, a flag apart (R22). -/
def Instr.names (r : Reg) : Instr → Bool
  | .ldImm x _ | .addImm x _ | .ldReg x _ | .orReg x _ | .andReg x _ | .xorReg x _ => x == r
  | .addReg x _ | .subReg x _ | .shr x | .subnReg x _ | .shl x | .rnd x _ | .ldFromDt x => x == r
  | .loadRegs x => decide (r ≤ x)
  | .cls | .ret | .jp _ | .call _ | .seImm _ _ | .sneImm _ _ | .seReg _ _ | .sneReg _ _ | .ldI _ | .jpV0 _ => false
  | .drw _ _ _ | .skp _ | .sknp _ | .ldKey _ | .ldToDt _ | .ldToSt _ | .addI _ | .ldGlyph _ | .ldBcd _ => false
  | .storeRegs _ => false

/-- The bits of an instruction's word that are not ignored (R82). -/
def Instr.usedBits : Instr → Word
  | .cls | .ret => 0xF0FF
  | .shr _ | .shl _ => 0xFF0F
  | .jp _ | .call _ | .seImm _ _ | .sneImm _ _ | .seReg _ _ | .ldImm _ _ | .addImm _ _ | .ldReg _ _ => 0xFFFF
  | .orReg _ _ | .andReg _ _ | .xorReg _ _ | .addReg _ _ | .subReg _ _ | .subnReg _ _ | .sneReg _ _ => 0xFFFF
  | .ldI _ | .jpV0 _ | .rnd _ _ | .drw _ _ _ | .skp _ | .sknp _ | .ldFromDt _ | .ldKey _ | .ldToDt _ => 0xFFFF
  | .ldToSt _ | .addI _ | .ldGlyph _ | .ldBcd _ | .storeRegs _ | .loadRegs _ => 0xFFFF

end Sys2Proof

namespace Sys2Proof.Machine

/-! ### Reset -/

/-- Every piece of state has the value R36 gives it, for the glyphs `rom` and `capacity` stack slots. -/
structure State.asReset (rom : Vector Byte Config.glyphBytes) (capacity : Nat) (s : State) : Prop where
  registers : ∀ r, s.getV r = 0
  index : s.i = 0
  pc : s.pc = 0x200
  stackPointer : s.sp = 0
  stackSize : s.stackCapacity = capacity
  stackSlots : ∀ j < capacity, s.stack[j]? = some 0
  timers : s.dt = 0 ∧ s.st = 0
  glyphs : ∀ (a : Word) (h : a.toNat < Config.glyphBytes), s.readByte a = rom[a.toNat]
  rest : ∀ a : Word, Config.glyphBytes ≤ a.toNat → a.toNat < Config.memSize → s.readByte a = 0
  display : ∀ px < 64, ∀ py < 32, s.fb.pixel px py = false
  wait : s.wait = .running
  fault : s.fault = .none

/-! ### Sprites -/

/-- Row `r`, column `c` of the sprite is a 1 bit that falls on pixel (`px`, `py`), both coordinates wrapped (R102). -/
def State.spriteBitAt (s : State) (x y : Reg) (px py r c : Nat) : Bool :=
  (s.readByte (s.indexAddr r)).getLsbD (7 - c) && ((s.getV x).toNat + c) % 64 == px && ((s.getV y).toNat + r) % 32 == py

/-- The sprite's wrapped mask: some 1 bit of the sprite falls on pixel (`px`, `py`) (R103). -/
def State.spriteCovers (s : State) (x y : Reg) (n : Nat) (px py : Nat) : Bool :=
  (List.range n).any fun r => (List.range 8).any fun c => s.spriteBitAt x y px py r c

end Sys2Proof.Machine
end

