-- ==== Sys2Proof/Certificates/Slice0/Obligations.lean ====
section
/-! DEFINITION. The statements for the provers. Each says which rule of the spec it formalises; an instruction's statement holds its
encoding, the state it answers, and its frame. -/

open Sys2Proof Sys2Proof.Machine

/-! ### Encoding -/

/-- R77, R80, R82, R70: encoding and then decoding gives the instruction back, as a word and as bytes in front of others. -/
def Obligations.DecodeOfEncodeIsTheInstruction : Prop :=
  ∀ i : Instr, i.wellFormed = true →
    decodeWord (encode i) = .ok i ∧ ∀ rest, decodeBytes (encodeBytes i ++ rest) = .ok (i, rest)

/-- R82: the ignored bits are the only ones a decoded word can differ in, an encoder writes 0 there, and changing them changes
nothing. Which bits are ignored is the spec's decisions D13 and D28. -/
def Obligations.OnlyIgnoredBitsAreLost : Prop :=
  (∀ w i, decodeWord w = .ok i → i.wellFormed = true ∧ encode i = w &&& i.usedBits) ∧
  (∀ w w' i, decodeWord w = .ok i → w' &&& i.usedBits = w &&& i.usedBits → decodeWord w' = .ok i)

/-- R80: a word decodes exactly when a row of the opcode map selects it, just one row does, and its mnemonic is the
instruction's; a word that no row selects is unknown. -/
def Obligations.DecoderAgreesWithOpcodeMap : Prop :=
  ∀ w, match decodeWord w with
    | .ok i => (opcodeTable.filter fun r => r.selects w).map (fun r => r.mnemonic) = [i.mnemonic]
    | .error e => e = .unknownInstruction w ∧ opcodeTable.filter (fun r => r.selects w) = []

/-- R84's table of illegal words, by leading nibble, low byte and 4th nibble. -/
def Obligations.IllegalWordsAreThoseListed : Prop :=
  ∀ w : Word, decodeWord w = .error (.unknownInstruction w) ↔
    (w.toNat / 4096 = 0x0 ∧ w.toNat % 256 ∉ [0xE0, 0xEE]) ∨
    (w.toNat / 4096 = 0x5 ∧ w.toNat % 16 ≠ 0) ∨
    (w.toNat / 4096 = 0x8 ∧ w.toNat % 16 ∈ [0x8, 0x9, 0xA, 0xB, 0xC, 0xD, 0xF]) ∨
    (w.toNat / 4096 = 0x9 ∧ w.toNat % 16 ≠ 0) ∨
    (w.toNat / 4096 = 0xE ∧ w.toNat % 256 ∉ [0x9E, 0xA1]) ∨
    (w.toNat / 4096 = 0xF ∧ w.toNat % 256 ∉ [0x07, 0x0A, 0x15, 0x18, 0x1E, 0x29, 0x33, 0x55, 0x65])

/-- Words written out from R80's patterns, one or more of each family, decode to their instructions (95_test_vectors.md E1 to
E31). -/
def Obligations.WrittenOutWordsDecode : Prop :=
  decodeWord 0x0AE0 = .ok .cls ∧ decodeWord 0xD01F = .ok (.drw 0 1 15) ∧ decodeWord 0x00EE = .ok .ret ∧
  decodeWord 0x1234 = .ok (.jp 0x234) ∧ decodeWord 0x9AB0 = .ok (.sneReg 0xA 0xB) ∧
  decodeWord 0x6A0F = .ok (.ldImm 0xA 0x0F) ∧ decodeWord 0x8ABE = .ok (.shl 0xA) ∧
  decodeWord 0x8127 = .ok (.subnReg 1 2) ∧ decodeWord 0xA123 = .ok (.ldI 0x123) ∧
  decodeWord 0xF133 = .ok (.ldBcd 1) ∧ decodeWord 0xF255 = .ok (.storeRegs 2) ∧
  decodeWord 0xC1FF = .ok (.rnd 1 0xFF) ∧ decodeWord 0xE1A1 = .ok (.sknp 1) ∧ decodeWord 0xF10A = .ok (.ldKey 1)

/-! ### Display -/

/-- R101: `CLS` clears every pixel and changes nothing else; bits 11:8 of its word are ignored. -/
def Obligations.ClsClearsFrameBuffer : Prop :=
  (∀ n : Reg, decodeWord (formatXK 0x0 n 0xE0) = .ok .cls) ∧
  ∀ s : State, ∃ t, exec .cls s = .next t ∧ (∀ px < 64, ∀ py < 32, t.fb.pixel px py = false) ∧
    t.pc = s.pc + 2 ∧ ChangesOnly (fun p => p = .display) s t

/-- R102, with R103 (a) and (b): `DRW` xors the sprite's wrapped mask onto the frame buffer; `VF` is 1 exactly when a set pixel
lies under a 1 bit of the sprite. The mask is that of the state before, so the coordinates are read before `VF` is written. The bit
and row order, the order of reads and writes and the empty sprite are the spec's decisions D8, D7 and D9. -/
def Obligations.DrwXorsTheSpriteMask : Prop :=
  ∀ (s : State) (x y : Reg) (n : Nat), n ≤ 15 →
    decodeWord (formatXYN 0xD x y (BitVec.ofNat 4 n)) = .ok (.drw x y n) ∧
    ∃ t, exec (.drw x y n) s = .next t ∧
      (∀ px < 64, ∀ py < 32, t.fb.pixel px py = (s.fb.pixel px py ^^ s.spriteCovers x y n px py)) ∧
      ((∃ px < 64, ∃ py < 32, s.fb.pixel px py = true ∧ s.spriteCovers x y n px py = true) → t.getV vf = 1) ∧
      ((∀ px < 64, ∀ py < 32, s.fb.pixel px py = true → s.spriteCovers x y n px py = false) → t.getV vf = 0) ∧
      t.pc = s.pc + 2 ∧ ChangesOnly (fun p => p = .display ∨ p = .reg vf) s t

/-- R103 (c), in the form in which it follows from R102 (log entry 21): drawing the same sprite twice at the same origin restores
the frame buffer, and the second draw collides exactly when the first one set a pixel. -/
def Obligations.DrawingTwiceRestoresTheFrameBuffer : Prop :=
  ∀ (s t : State) (x y : Reg) (n : Nat), n ≤ 15 → x ≠ vf → y ≠ vf → exec (.drw x y n) s = .next t →
    ∃ u, exec (.drw x y n) t = .next u ∧ u.fb = s.fb ∧
      (u.getV vf = 1 ↔ ∃ px < 64, ∃ py < 32, s.fb.pixel px py = false ∧ s.spriteCovers x y n px py = true)

/-! ### Control transfer -/

/-- R111, R203: `RET` pops the newest return address into `PC`, or, with an empty stack, sets the latch and does nothing else. -/
def Obligations.RetPopsOrUnderflows : Prop :=
  (∀ n : Reg, decodeWord (formatXK 0x0 n 0xEE) = .ok .ret) ∧
  ∀ s : State,
    (s.sp = 0 → exec .ret s = .next { s with fault := .stackUnderflow }) ∧
    (0 < s.sp → s.sp ≤ s.stackCapacity →
      ∃ t, exec .ret s = .next t ∧ s.stack[s.sp - 1]? = some t.pc ∧ t.sp = s.sp - 1 ∧ t.stack = s.stack ∧
        ChangesOnly (fun p => p = .stack) s t)

/-- R113, R202: `CALL` pushes the address of the next instruction and jumps, or, with a full stack, sets the latch and does nothing
else. -/
def Obligations.CallPushesOrOverflows : Prop :=
  ∀ (s : State) (addr : Addr),
    decodeWord (formatA 0x2 addr) = .ok (.call addr) ∧
    (s.sp = s.stackCapacity → exec (.call addr) s = .next { s with fault := .stackOverflow }) ∧
    (s.sp < s.stackCapacity →
      ∃ t, exec (.call addr) s = .next t ∧ t.pc.toNat = addr.toNat ∧ t.sp = s.sp + 1 ∧
        t.stack[s.sp]? = some (s.pc + 2) ∧ (∀ j, j ≠ s.sp → t.stack[j]? = s.stack[j]?) ∧
        ChangesOnly (fun p => p = .stack) s t)

/-- R112: `JP addr` goes to its address and changes nothing else. -/
def Obligations.JumpGoesToItsAddress : Prop :=
  ∀ (s : State) (addr : Addr),
    decodeWord (formatA 0x1 addr) = .ok (.jp addr) ∧
    ∃ t, exec (.jp addr) s = .next t ∧ t.pc.toNat = addr.toNat ∧ ChangesOnlyPc s t

/-- R119: `JP V0,addr` goes to the unreduced sum and changes nothing else. -/
def Obligations.JumpWithOffsetAddsV0 : Prop :=
  ∀ (s : State) (addr : Addr),
    decodeWord (formatA 0xB addr) = .ok (.jpV0 addr) ∧
    ∃ t, exec (.jpV0 addr) s = .next t ∧ t.pc.toNat = (s.getV 0).toNat + addr.toNat ∧ ChangesOnlyPc s t

/-- R114, R115, R118: compare with an immediate and skip. -/
def Obligations.CompareWithImmediateSkips : Prop :=
  ∀ (s : State) (x : Reg) (kk : Byte),
    (decodeWord (formatXK 0x3 x kk) = .ok (.seImm x kk) ∧
      ∃ t, exec (.seImm x kk) s = .next t ∧ t.pc = (if s.getV x = kk then s.pc + 4 else s.pc + 2) ∧
        ChangesOnlyPc s t) ∧
    (decodeWord (formatXK 0x4 x kk) = .ok (.sneImm x kk) ∧
      ∃ t, exec (.sneImm x kk) s = .next t ∧ t.pc = (if s.getV x = kk then s.pc + 2 else s.pc + 4) ∧
        ChangesOnlyPc s t)

/-- R116, R117, R118: compare two registers and skip; the other 4th nibbles of groups 0x5 and 0x9 are illegal. -/
def Obligations.CompareRegistersSkips : Prop :=
  ∀ (s : State) (x y : Reg),
    (decodeWord (formatXYN 0x5 x y 0) = .ok (.seReg x y) ∧
      ∃ t, exec (.seReg x y) s = .next t ∧ t.pc = (if s.getV x = s.getV y then s.pc + 4 else s.pc + 2) ∧
        ChangesOnlyPc s t) ∧
    (decodeWord (formatXYN 0x9 x y 0) = .ok (.sneReg x y) ∧
      ∃ t, exec (.sneReg x y) s = .next t ∧ t.pc = (if s.getV x = s.getV y then s.pc + 2 else s.pc + 4) ∧
        ChangesOnlyPc s t) ∧
    (∀ n : Nibble, n ≠ 0 →
      decodeWord (formatXYN 0x5 x y n) = .error (.unknownInstruction (formatXYN 0x5 x y n)) ∧
      decodeWord (formatXYN 0x9 x y n) = .error (.unknownInstruction (formatXYN 0x9 x y n)))

/-- R111, R113, R120: a call followed at its target by a return comes back to the next instruction with the stack as deep as
before, and everything else as it was. The spec derives R120 from R111 and R113. -/
def Obligations.ReturnUndoesCall : Prop :=
  ∀ (s t : State) (addr : Addr), s.sp < s.stackCapacity → exec (.call addr) s = .next t →
    ∃ u, exec .ret t = .next u ∧ u.pc = s.pc + 2 ∧ u.sp = s.sp ∧
      (∀ j, j ≠ s.sp → u.stack[j]? = s.stack[j]?) ∧ ChangesOnly (fun p => p = .stack) s u

/-- R110, with the skips' conditions from R114 to R117, R171 and R172: what each instruction does with `PC`, on every state: the
policy's value when it completes, nothing when it raises. That `SKP` and `SKNP` compare all 8 bits of `V[x]` is the spec's decision
D11 (log entry 13). -/
def Obligations.ProgramCounterPolicy : Prop :=
  ∀ (i : Instr) (s t : State), s.fault = .none → exec i s = .next t →
    (t.fault ≠ .none → t.pc = s.pc) ∧
    (t.fault = .none →
      match i with
      | .jp addr | .call addr => t.pc.toNat = addr.toNat
      | .jpV0 addr => t.pc.toNat = (s.getV 0).toNat + addr.toNat
      | .ret => s.stack[s.sp - 1]? = some t.pc
      | .seImm x kk => t.pc = if s.getV x = kk then s.pc + 4 else s.pc + 2
      | .sneImm x kk => t.pc = if s.getV x = kk then s.pc + 2 else s.pc + 4
      | .seReg x y => t.pc = if s.getV x = s.getV y then s.pc + 4 else s.pc + 2
      | .sneReg x y => t.pc = if s.getV x = s.getV y then s.pc + 2 else s.pc + 4
      | .skp x => (s.keyNamedBy x → t.pc = s.pc + 4) ∧ (¬ s.keyNamedBy x → t.pc = s.pc + 2)
      | .sknp x => (s.keyNamedBy x → t.pc = s.pc + 2) ∧ (¬ s.keyNamedBy x → t.pc = s.pc + 4)
      | _ => t.pc = s.pc + 2)

/-! ### Register loads and the ALU -/

/-- R131, R133: `LD Vx,kk` and `LD Vx,Vy`. -/
def Obligations.RegisterLoads : Prop :=
  ∀ (s : State) (x y : Reg) (kk : Byte),
    (decodeWord (formatXK 0x6 x kk) = .ok (.ldImm x kk) ∧
      ∃ t, exec (.ldImm x kk) s = .next t ∧ t.getV x = kk ∧ t.pc = s.pc + 2 ∧ ChangesOnly (fun p => p = .reg x) s t) ∧
    (decodeWord (formatXYN 0x8 x y 0x0) = .ok (.ldReg x y) ∧
      ∃ t, exec (.ldReg x y) s = .next t ∧ t.getV x = s.getV y ∧ t.pc = s.pc + 2 ∧
        ChangesOnly (fun p => p = .reg x) s t)

/-- R132: `ADD Vx,kk` adds modulo 256 and writes no flag. -/
def Obligations.AddImmediateWrapsWithoutFlag : Prop :=
  ∀ (s : State) (x : Reg) (kk : Byte),
    decodeWord (formatXK 0x7 x kk) = .ok (.addImm x kk) ∧
    ∃ t, exec (.addImm x kk) s = .next t ∧ (t.getV x).toNat = ((s.getV x).toNat + kk.toNat) % 256 ∧
      t.pc = s.pc + 2 ∧ ChangesOnly (fun p => p = .reg x) s t

/-- R134, R135, R136: the bitwise instructions, bit by bit; they write no flag. -/
def Obligations.BitwiseInstructions : Prop :=
  ∀ (s : State) (x y : Reg),
    (decodeWord (formatXYN 0x8 x y 0x1) = .ok (.orReg x y) ∧
      ∃ t, exec (.orReg x y) s = .next t ∧
        (∀ k < 8, (t.getV x).getLsbD k = ((s.getV x).getLsbD k || (s.getV y).getLsbD k)) ∧
        t.pc = s.pc + 2 ∧ ChangesOnly (fun p => p = .reg x) s t) ∧
    (decodeWord (formatXYN 0x8 x y 0x2) = .ok (.andReg x y) ∧
      ∃ t, exec (.andReg x y) s = .next t ∧
        (∀ k < 8, (t.getV x).getLsbD k = ((s.getV x).getLsbD k && (s.getV y).getLsbD k)) ∧
        t.pc = s.pc + 2 ∧ ChangesOnly (fun p => p = .reg x) s t) ∧
    (decodeWord (formatXYN 0x8 x y 0x3) = .ok (.xorReg x y) ∧
      ∃ t, exec (.xorReg x y) s = .next t ∧
        (∀ k < 8, (t.getV x).getLsbD k = ((s.getV x).getLsbD k ^^ (s.getV y).getLsbD k)) ∧
        t.pc = s.pc + 2 ∧ ChangesOnly (fun p => p = .reg x) s t)

/-- R137: `ADD Vx,Vy`: the sum modulo 256, then the carry in `VF`, which remains when `x = 15`. -/
def Obligations.AddRegistersSetsCarry : Prop :=
  ∀ (s : State) (x y : Reg),
    decodeWord (formatXYN 0x8 x y 0x4) = .ok (.addReg x y) ∧
    ∃ t, exec (.addReg x y) s = .next t ∧
      (x ≠ vf → (t.getV x).toNat = ((s.getV x).toNat + (s.getV y).toNat) % 256) ∧
      t.getV vf = (if 255 < (s.getV x).toNat + (s.getV y).toNat then 1 else 0) ∧
      t.pc = s.pc + 2 ∧ ChangesOnly (fun p => p = .reg x ∨ p = .reg vf) s t

/-- R138: `SUB Vx,Vy`: the difference modulo 256, then the no-borrow flag in `VF`, which remains when `x = 15`. -/
def Obligations.SubtractSetsNoBorrow : Prop :=
  ∀ (s : State) (x y : Reg),
    decodeWord (formatXYN 0x8 x y 0x5) = .ok (.subReg x y) ∧
    ∃ t, exec (.subReg x y) s = .next t ∧
      (x ≠ vf → (t.getV x).toNat = (256 + (s.getV x).toNat - (s.getV y).toNat) % 256) ∧
      t.getV vf = (if (s.getV y).toNat ≤ (s.getV x).toNat then 1 else 0) ∧
      t.pc = s.pc + 2 ∧ ChangesOnly (fun p => p = .reg x ∨ p = .reg vf) s t

/-- R140: `SUBN Vx,Vy`: `Vy` minus `Vx` modulo 256, then the no-borrow flag in `VF`, which remains when `x = 15`. That no borrow means
`Vy >= Vx` is the spec's decision D27. -/
def Obligations.ReverseSubtractSetsNoBorrow : Prop :=
  ∀ (s : State) (x y : Reg),
    decodeWord (formatXYN 0x8 x y 0x7) = .ok (.subnReg x y) ∧
    ∃ t, exec (.subnReg x y) s = .next t ∧
      (x ≠ vf → (t.getV x).toNat = (256 + (s.getV y).toNat - (s.getV x).toNat) % 256) ∧
      t.getV vf = (if (s.getV x).toNat ≤ (s.getV y).toNat then 1 else 0) ∧
      t.pc = s.pc + 2 ∧ ChangesOnly (fun p => p = .reg x ∨ p = .reg vf) s t

/-- R139, R141: `SHR` and `SHL`: half and double, then the bit shifted out, 0 or 1, in `VF`; the `y` field is ignored, which is the
spec's decision D28. -/
def Obligations.ShiftsSetTheBitShiftedOut : Prop :=
  ∀ (s : State) (x y : Reg),
    (decodeWord (formatXYN 0x8 x y 0x6) = .ok (.shr x) ∧
      ∃ t, exec (.shr x) s = .next t ∧ (x ≠ vf → (t.getV x).toNat = (s.getV x).toNat / 2) ∧
        (t.getV vf).toNat = (s.getV x).toNat % 2 ∧
        t.pc = s.pc + 2 ∧ ChangesOnly (fun p => p = .reg x ∨ p = .reg vf) s t) ∧
    (decodeWord (formatXYN 0x8 x y 0xE) = .ok (.shl x) ∧
      ∃ t, exec (.shl x) s = .next t ∧ (x ≠ vf → (t.getV x).toNat = 2 * (s.getV x).toNat % 256) ∧
        (t.getV vf).toNat = (s.getV x).toNat / 128 ∧
        t.pc = s.pc + 2 ∧ ChangesOnly (fun p => p = .reg x ∨ p = .reg vf) s t)

/-- R22: `VF` changes only by the six flag producers, which leave it 0 or 1, and by an instruction that names `V[15]` as its
destination. -/
def Obligations.OnlyFlagProducersWriteVf : Prop :=
  ∀ (i : Instr) (s t : State), exec i s = .next t →
    (i.producesFlag = true → t.getV vf = 0 ∨ t.getV vf = 1) ∧
    (i.producesFlag = false → i.names vf = false → t.getV vf = s.getV vf)

/-! ### Index register and memory -/

/-- R151: `LD I,addr` loads the zero-extended address and changes nothing else. -/
def Obligations.LoadIndexLoadsTheAddress : Prop :=
  ∀ (s : State) (addr : Addr),
    decodeWord (formatA 0xA addr) = .ok (.ldI addr) ∧
    ∃ t, exec (.ldI addr) s = .next t ∧ t.i.toNat = addr.toNat ∧ t.pc = s.pc + 2 ∧
      ChangesOnly (fun p => p = .index) s t

/-- R152, R153: `ADD I,Vx` adds modulo 65536 and `LD F,Vx` multiplies the whole byte by 5; neither writes `VF`. The width of the sum
and the unmasked digit are the spec's decisions D29 and D20. -/
def Obligations.IndexArithmetic : Prop :=
  ∀ (s : State) (x : Reg),
    (decodeWord (formatXK 0xF x 0x1E) = .ok (.addI x) ∧
      ∃ t, exec (.addI x) s = .next t ∧ t.i.toNat = (s.i.toNat + (s.getV x).toNat) % 65536 ∧ t.pc = s.pc + 2 ∧
        ChangesOnly (fun p => p = .index) s t) ∧
    (decodeWord (formatXK 0xF x 0x29) = .ok (.ldGlyph x) ∧
      ∃ t, exec (.ldGlyph x) s = .next t ∧ t.i.toNat = (s.getV x).toNat * 5 ∧ t.pc = s.pc + 2 ∧
        ChangesOnly (fun p => p = .index) s t)

/-- R154: `LD B,Vx` stores the three decimal digits at `I`, `I + 1`, `I + 2`, wrapping at 0xFFF, and changes nothing else. -/
def Obligations.BcdStoresThreeDigits : Prop :=
  ∀ (s : State) (x : Reg),
    decodeWord (formatXK 0xF x 0x33) = .ok (.ldBcd x) ∧
    ∃ t, exec (.ldBcd x) s = .next t ∧
      (t.readByte s.i).toNat = (s.getV x).toNat / 100 ∧
      (t.readByte (s.i + 1)).toNat = (s.getV x).toNat / 10 % 10 ∧
      (t.readByte (s.i + 2)).toNat = (s.getV x).toNat % 10 ∧
      t.pc = s.pc + 2 ∧ ChangesOnly (Part.inBlock s 3) s t

/-- R156: `LD [I],Vx` stores `V[k]` at `I + k` for `k` from 0 to `x`, wrapping at 0xFFF, and changes nothing else. -/
def Obligations.StoreRegistersStoresTheBlock : Prop :=
  ∀ (s : State) (x : Reg),
    decodeWord (formatXK 0xF x 0x55) = .ok (.storeRegs x) ∧
    ∃ t, exec (.storeRegs x) s = .next t ∧
      (∀ r : Reg, r ≤ x → t.readByte (s.i + BitVec.ofNat 16 r.val) = s.getV r) ∧
      t.pc = s.pc + 2 ∧ ChangesOnly (Part.inBlock s (x.val + 1)) s t

/-- R157: `LD Vx,[I]` loads `V[k]` from `I + k` for `k` from 0 to `x` and changes nothing else. -/
def Obligations.LoadRegistersLoadsTheBlock : Prop :=
  ∀ (s : State) (x : Reg),
    decodeWord (formatXK 0xF x 0x65) = .ok (.loadRegs x) ∧
    ∃ t, exec (.loadRegs x) s = .next t ∧
      (∀ r : Reg, r ≤ x → t.getV r = s.readByte (s.i + BitVec.ofNat 16 r.val)) ∧
      t.pc = s.pc + 2 ∧ ChangesOnly (fun p => ∃ r, r ≤ x ∧ p = .reg r) s t

/-- R52, R55: memory has 12 address lines, which is the spec's decision D3, and an instruction word is big-endian. -/
def Obligations.FetchIsBigEndianAndWraps : Prop :=
  ∀ s : State,
    s.fetch.toNat = 256 * (s.readByte s.pc).toNat + (s.readByte (s.pc + 1)).toNat ∧
    ∀ a b : Word, a.toNat % 4096 = b.toNat % 4096 → s.readByte a = s.readByte b

/-- R63: a store is seen by the very next fetch: with `I` at the next instruction, `LD [I],V1` leaves there the instruction that
`V0` and `V1` spell, and the next step runs it. The spec derives it from R55 and R42. -/
def Obligations.StoredInstructionIsTheNextToRun : Prop :=
  ∀ (s t : State) (j : Instr) (key : Option Nibble) (rnd : Byte) (rest : List Event),
    s.fault = .none → s.wait = .running → s.i = s.pc + 2 → s.pending = .step key rnd :: rest →
    decodeWord (wordOfBytes (s.getV 0) (s.getV 1)) = .ok j → exec (.storeRegs 1) s = .next t →
    step t = exec j { t with pending := rest, key := key, rnd := rnd, canLoad := false }

/-- The canonical form is one form: memories that read alike at every address are the same list (the model's own choice of data,
log entry 3). -/
def Obligations.EqualReadsMeanEqualMemory : Prop :=
  ∀ (rom : Vector Byte Config.glyphBytes) (m m' : Memory), Memory.wf rom m → Memory.wf rom m' →
    (∀ a < Config.memSize, Memory.read rom m a = Memory.read rom m' a) → m = m'

/-! ### Random number, keypad, timers -/

/-- R170: `RND Vx,kk` is the step's random byte under the mask, bit by bit. That the byte is an input is the spec's decision D19. -/
def Obligations.RndMasksTheRandomByte : Prop :=
  ∀ (s : State) (x : Reg) (kk : Byte),
    decodeWord (formatXK 0xC x kk) = .ok (.rnd x kk) ∧
    ∃ t, exec (.rnd x kk) s = .next t ∧ (∀ k < 8, (t.getV x).getLsbD k = (s.rnd.getLsbD k && kk.getLsbD k)) ∧
      t.pc = s.pc + 2 ∧ ChangesOnly (fun p => p = .reg x) s t

/-- R170: every other instruction ignores the random byte: with another one it answers the same next state, that byte apart. -/
def Obligations.OnlyRndSeesTheRandomByte : Prop :=
  ∀ (i : Instr) (s t : State) (rnd : Byte), (∀ x kk, i ≠ .rnd x kk) → exec i s = .next t →
    exec i { s with rnd := rnd } = .next { t with rnd := rnd }

/-- R215: every instruction but `SKP` and `SKNP` ignores the key, `LD Vx,K` on its own step included (R174): with another key it
answers the same next state, that key apart. -/
def Obligations.OnlyKeySkipsSeeTheKey : Prop :=
  ∀ (i : Instr) (s t : State) (key : Option Nibble), (∀ x, i ≠ .skp x ∧ i ≠ .sknp x) → exec i s = .next t →
    exec i { s with key := key } = .next { t with key := key }

/-- R171, R172: `SKP` skips exactly when the current key is the one `V[x]` names, `SKNP` exactly when it is not; no key is not
pressed. That all 8 bits of `V[x]` are compared is the spec's decision D11. -/
def Obligations.KeySkipsAreComplementary : Prop :=
  ∀ (s : State) (x : Reg),
    decodeWord (formatXK 0xE x 0x9E) = .ok (.skp x) ∧ decodeWord (formatXK 0xE x 0xA1) = .ok (.sknp x) ∧
    ∃ t u, exec (.skp x) s = .next t ∧ exec (.sknp x) s = .next u ∧
      (s.keyNamedBy x → t.pc = s.pc + 4 ∧ u.pc = s.pc + 2) ∧
      (¬ s.keyNamedBy x → t.pc = s.pc + 2 ∧ u.pc = s.pc + 4) ∧ ChangesOnlyPc s t ∧ ChangesOnlyPc s u

/-- R174, R33, R42: `LD Vx,K` enters the wait; a step that finds no key changes nothing; a step that finds one puts it into `V[x]`
and ends the wait; neither moves `PC`. The details are the spec's decision D12. -/
def Obligations.WaitForKey : Prop :=
  ∀ (s : State) (x : Reg),
    (decodeWord (formatXK 0xF x 0x0A) = .ok (.ldKey x) ∧
      ∃ t, exec (.ldKey x) s = .next t ∧ t.wait = .awaitingKey x ∧ t.pc = s.pc + 2 ∧
        ChangesOnly (fun p => p = .wait) s t) ∧
    (∀ rnd rest, s.fault = .none → s.wait = .awaitingKey x → s.pending = .step none rnd :: rest →
      ∃ t, step s = .next t ∧ t.pc = s.pc ∧ t.pending = rest ∧ KeepsPartsBut (fun _ => False) s t) ∧
    (∀ k rnd rest, s.fault = .none → s.wait = .awaitingKey x → s.pending = .step (some k) rnd :: rest →
      ∃ t, step s = .next t ∧ (t.getV x).toNat = k.toNat ∧ t.wait = .running ∧ t.pc = s.pc ∧ t.pending = rest ∧
        KeepsPartsBut (fun p => p = .reg x ∨ p = .wait) s t)

/-- R173, R175, R176: the instructions that move timers. -/
def Obligations.TimerInstructions : Prop :=
  ∀ (s : State) (x : Reg),
    (decodeWord (formatXK 0xF x 0x07) = .ok (.ldFromDt x) ∧
      ∃ t, exec (.ldFromDt x) s = .next t ∧ t.getV x = s.dt ∧ t.pc = s.pc + 2 ∧
        ChangesOnly (fun p => p = .reg x) s t) ∧
    (decodeWord (formatXK 0xF x 0x15) = .ok (.ldToDt x) ∧
      ∃ t, exec (.ldToDt x) s = .next t ∧ t.dt = s.getV x ∧ t.pc = s.pc + 2 ∧
        ChangesOnly (fun p => p = .delayTimer) s t) ∧
    (decodeWord (formatXK 0xF x 0x18) = .ok (.ldToSt x) ∧
      ∃ t, exec (.ldToSt x) s = .next t ∧ t.st = s.getV x ∧ t.pc = s.pc + 2 ∧
        ChangesOnly (fun p => p = .soundTimer) s t)

/-- R211: the event `tick` counts both timers down to 0 and changes nothing else, whatever `WAIT` and `FAULT` hold (the spec's
decision D17). -/
def Obligations.TickCountsBothTimersDown : Prop :=
  ∀ (s : State) (rest : List Event), s.pending = .tick :: rest →
    ∃ t, step s = .next t ∧ t.dt.toNat = s.dt.toNat - 1 ∧ t.st.toNat = s.st.toNat - 1 ∧ t.pc = s.pc ∧
      SameModelFields { s with pending := rest } t ∧ KeepsPartsBut (fun p => p = .delayTimer ∨ p = .soundTimer) s t

/-- R28, R211, R218: a timer that an instruction set to `v` shows `v` less the number of ticks since, and 0 once they are `v` or
more; the buzzer sounds just until then. -/
def Obligations.TimersCountFromWhatWasSet : Prop :=
  ∀ (s t : State) (x : Reg) (n : Nat),
    (exec (.ldToDt x) s = .next t →
      ∀ y, ∃ u, exec (.ldFromDt y) (State.tick^[n] t) = .next u ∧ (u.getV y).toNat = (s.getV x).toNat - n) ∧
    (exec (.ldToSt x) s = .next t → ((State.tick^[n] t).buzzer = true ↔ n < (s.getV x).toNat))

/-! ### The machine -/

/-- R42: a step of a core that is neither halted nor waiting runs the instruction the word at `PC` decodes to, with the step's key
and random byte as its inputs. -/
def Obligations.StepRunsTheDecodedInstruction : Prop :=
  ∀ (s : State) (i : Instr) (key : Option Nibble) (rnd : Byte) (rest : List Event),
    s.fault = .none → s.wait = .running → s.pending = .step key rnd :: rest → decodeWord s.fetch = .ok i →
    step s = exec i { s with pending := rest, key := key, rnd := rnd, canLoad := false }

/-- The model's own choice (log entry 5): with no event pending, a step runs the decoded instruction after a free number of ticks,
with a free key and a free random byte. It holds whatever the free values are. -/
def Obligations.StepWithFreeInputsRunsTheDecodedInstruction : Prop :=
  ∀ (s : State) (i : Instr),
    s.fault = .none → s.wait = .running → s.pending = [] → decodeWord s.fetch = .ok i →
    step s = exec i
      { s with
        dt := timerAfter s.dt (Config.freeTicks s.draws), st := timerAfter s.st (Config.freeTicks s.draws),
        key := Config.freeKey s.draws, rnd := Config.freeRnd s.draws, draws := s.draws + 1, canLoad := false }

/-- R201, R204: a fetched word that is no instruction sets the latch to UnknownInstruction with `PC` and the word; nothing else of
the core's state changes, which is the spec's decision D15. -/
def Obligations.UnknownWordSetsTheLatch : Prop :=
  ∀ (s : State) (key : Option Nibble) (rnd : Byte) (rest : List Event),
    s.fault = .none → s.wait = .running → s.pending = .step key rnd :: rest →
    decodeWord s.fetch = .error (.unknownInstruction s.fetch) →
    ∃ t, step s = .next t ∧ t.fault = .unknownInstruction s.pc s.fetch ∧ t.pc = s.pc ∧
      KeepsPartsBut (fun p => p = .fault) s t

/-- R204, R206: an instruction that raises a fatal error does nothing else (the spec's decision D15), and only a `CALL` with a full
stack and a `RET` with an empty one raise. -/
def Obligations.FatalErrorsArePrecise : Prop :=
  ∀ (i : Instr) (s t : State), s.fault = .none → exec i s = .next t → t.fault ≠ .none →
    t = { s with fault := t.fault } ∧
    ((∃ addr, i = .call addr ∧ s.sp = s.stackCapacity ∧ t.fault = .stackOverflow) ∨
      (i = .ret ∧ s.sp = 0 ∧ t.fault = .stackUnderflow))

/-- R34, R208, R209: a halted core does nothing on a step, and the event `reset` is the only way its latch changes (the spec's
decision D15). -/
def Obligations.OnlyResetLeavesTheHaltedState : Prop :=
  ∀ s t : State, s.fault ≠ .none → step s = .next t →
    ((∃ rest, s.pending = .reset :: rest) ∧ t.fault = .none) ∨
    (t.fault = s.fault ∧ t.pc = s.pc ∧
      ((∃ key rnd rest, s.pending = .step key rnd :: rest) → KeepsPartsBut (fun _ => False) s t))

/-- R36, R230, R40: reset gives every piece of state its value, at power-on and as an event in whatever state. The values the source
does not spell are the spec's decision D18; the 16 slots and the default glyphs are its parameters' defaults (log entries 1 and 2). -/
def Obligations.ResetGivesEveryPieceItsValue : Prop :=
  State.asReset defaultGlyphRom 16 State.reset ∧
  ∀ (s : State) (rest : List Event), s.pending = .reset :: rest →
    ∃ t, step s = .next t ∧ State.asReset s.glyphRom s.stackCapacity t ∧ t.pending = rest ∧ t.canLoad = true

/-- R231: with nothing loaded the first step after reset raises UnknownInstruction(0x0200, 0x0000), whatever its inputs.
The spec derives it from its reset values (decision D18). -/
def Obligations.EmptyMachineFaultsAtOnce : Prop :=
  ∀ (key : Option Nibble) (rnd : Byte),
    ∃ t, step { State.reset with pending := [.step key rnd] } = .next t ∧ t.fault = .unknownInstruction 0x200 0

/-- R41: `load` copies the bytes from 0x200 on, drops those beyond 0xFFF and changes nothing else; when `load` has no meaning it is
refused (the spec's decision D21). -/
def Obligations.LoadCopiesAndTruncates : Prop :=
  ∀ (s : State) (bytes : List Byte) (rest : List Event), s.pending = .load bytes :: rest →
    (s.canLoad = true →
      ∃ t, step s = .next t ∧
        (∀ k b, bytes[k]? = some b → k < 3584 → t.readByte (BitVec.ofNat 16 (0x200 + k)) = b) ∧
        (∀ a : Word, a.toNat < 4096 → a.toNat < 0x200 ∨ 0x200 + bytes.length ≤ a.toNat →
          t.readByte a = s.readByte a) ∧
        t.pc = s.pc ∧ SameModelFields { s with pending := rest, canLoad := false } t ∧
        KeepsPartsBut (fun p => ∃ a, p = .byte a) s t) ∧
    (s.canLoad = false → step s = .refused .loadNotAllowed)

/-- R41, R232: `load` has a meaning exactly from a reset on, through ticks, until a `load` or a step (the spec's decision D21, read as
log entry 6 says). -/
def Obligations.LoadingPeriod : Prop :=
  ∀ s t : State, step s = .next t →
    (t.canLoad = true ↔
      (∃ rest, s.pending = .reset :: rest) ∨ (s.canLoad = true ∧ ∃ rest, s.pending = .tick :: rest))

/-- R238 (a) and (b): a self-jump and a wait without a key are stable: the step leaves the core's whole state as it was. The
two conditions are the spec's definition for claims (decision D32). -/
def Obligations.SelfJumpAndUnansweredWaitAreStable : Prop :=
  ∀ (s : State) (key : Option Nibble) (rnd : Byte) (rest : List Event),
    s.fault = .none → s.pending = .step key rnd :: rest →
    (s.wait = .running ∧ s.pc.toNat ≤ 0xFFF ∧ s.fetch = 0x1000 + s.pc) ∨ (∃ x, s.wait = .awaitingKey x ∧ key = none) →
    step s = .next { s with pending := rest, key := key, rnd := rnd, canLoad := false }

/-- R20 with the writers R22, R23, R26, R28, R32, R33, R34 and R65 list: no instruction changes a part of the state that its rule
does not name, and none changes the environment's fields. -/
def Obligations.InstructionsChangeOnlyWhatTheirRulesName : Prop :=
  ∀ (i : Instr) (s t : State), exec i s = .next t → ChangesOnly (i.writes s) s t

/-- R26, R29 (the canonical form of memory is the model's own, log entry 3): every step keeps memory canonical and `SP` between 0 and
STACK_CAPACITY. -/
def Obligations.StepKeepsWellFormedness : Prop :=
  ∀ s t : State, s.wf → step s = .next t → t.wf

/-- R34, R41, R204, R206: every step keeps the control state truthful: a halted core shows in `PC`, memory and `SP` the very cause its
latch names. -/
def Obligations.StepKeepsTheLatchTruthful : Prop :=
  ∀ s t : State, s.latched → step s = .next t → t.latched

/-- The invariants hold at reset, for every choice of the parameters. -/
def Obligations.ResetSatisfiesTheInvariants : Prop :=
  State.reset.wf ∧ State.reset.latched ∧
  ∀ rom capacity, 0 < capacity → (State.resetWith rom capacity).wf ∧ (State.resetWith rom capacity).latched

/-- R200, R59: from a well-formed state no step stops: memory, alignment, arithmetic and the stack have a defined result in every
case, and only an ill-timed `load` is refused. -/
def Obligations.WellFormedMachineNeverStops : Prop :=
  ∀ s : State, s.wf →
    (∃ t, step s = .next t) ∨
    (s.canLoad = false ∧ (∃ bytes rest, s.pending = .load bytes :: rest) ∧ step s = .refused .loadNotAllowed)

/-- R7, R40: no step changes the parameters STACK_CAPACITY and GLYPH_ROM, and each takes one event off the pending ones, which are the
model's own form of the events (log entry 4). -/
def Obligations.StepKeepsTheParameters : Prop :=
  ∀ s t : State, step s = .next t →
    t.glyphRom = s.glyphRom ∧ t.stackCapacity = s.stackCapacity ∧ t.pending = s.pending.tail
end

