-- ==== Sys2Proof/Laws/Decode.lean ====
section
/-! SUPPORT. The fields of the word each format builds, and the word its fields build (spec 30_encoding.md R71 to R76). -/

namespace Sys2Proof

@[simp] theorem toFin_regBits (r : Reg) : (regBits r).toFin = r := rfl

@[simp] theorem regBits_toFin (n : Nibble) : regBits n.toFin = n := rfl

/-! ### The fields of a built word -/

@[simp] theorem fieldOp_formatA (op : Nibble) (addr : Addr) : fieldOp (formatA op addr) = op := by
  apply BitVec.eq_of_getLsbD_eq
  intro i hi
  simp only [fieldOp, formatA, BitVec.getLsbD_extractLsb', BitVec.getLsbD_append]
  simp [hi]

@[simp] theorem fieldAddr_formatA (op : Nibble) (addr : Addr) : fieldAddr (formatA op addr) = addr := by
  apply BitVec.eq_of_getLsbD_eq
  intro i hi
  simp only [fieldAddr, formatA, BitVec.getLsbD_extractLsb', BitVec.getLsbD_append]
  simp [hi]

@[simp] theorem fieldOp_formatXK (op : Nibble) (x : Reg) (kk : Byte) : fieldOp (formatXK op x kk) = op := by
  apply BitVec.eq_of_getLsbD_eq
  intro i hi
  simp only [fieldOp, formatXK, BitVec.getLsbD_extractLsb', BitVec.getLsbD_append]
  simp [hi]

@[simp] theorem fieldX_formatXK (op : Nibble) (x : Reg) (kk : Byte) : fieldX (formatXK op x kk) = x := by
  have h : (formatXK op x kk).extractLsb' 8 4 = regBits x := by
    apply BitVec.eq_of_getLsbD_eq
    intro i hi
    simp only [formatXK, BitVec.getLsbD_extractLsb', BitVec.getLsbD_append]
    interval_cases i <;> simp
  rw [fieldX, h, toFin_regBits]

@[simp] theorem fieldKk_formatXK (op : Nibble) (x : Reg) (kk : Byte) : fieldKk (formatXK op x kk) = kk := by
  apply BitVec.eq_of_getLsbD_eq
  intro i hi
  simp only [fieldKk, formatXK, BitVec.getLsbD_extractLsb', BitVec.getLsbD_append]
  interval_cases i <;> simp

/-- Format XYN is format XK with the 3rd and 4th nibbles in the low byte. -/
theorem formatXYN_eq_formatXK (op : Nibble) (x y : Reg) (n : Nibble) :
    formatXYN op x y n = formatXK op x (regBits y ++ n) := rfl

@[simp] theorem fieldOp_formatXYN (op : Nibble) (x y : Reg) (n : Nibble) : fieldOp (formatXYN op x y n) = op := by
  rw [formatXYN_eq_formatXK, fieldOp_formatXK]

@[simp] theorem fieldX_formatXYN (op : Nibble) (x y : Reg) (n : Nibble) : fieldX (formatXYN op x y n) = x := by
  rw [formatXYN_eq_formatXK, fieldX_formatXK]

@[simp] theorem fieldY_formatXYN (op : Nibble) (x y : Reg) (n : Nibble) : fieldY (formatXYN op x y n) = y := by
  have h : (formatXYN op x y n).extractLsb' 4 4 = regBits y := by
    apply BitVec.eq_of_getLsbD_eq
    intro i hi
    simp only [formatXYN, BitVec.getLsbD_extractLsb', BitVec.getLsbD_append]
    interval_cases i <;> simp
  rw [fieldY, h, toFin_regBits]

@[simp] theorem fieldN_formatXYN (op : Nibble) (x y : Reg) (n : Nibble) : fieldN (formatXYN op x y n) = n := by
  apply BitVec.eq_of_getLsbD_eq
  intro i hi
  simp only [fieldN, formatXYN, BitVec.getLsbD_extractLsb', BitVec.getLsbD_append]
  interval_cases i <;> simp

/-! ### A word from its fields -/

theorem formatXK_fields (w : Word) : formatXK (fieldOp w) (fieldX w) (fieldKk w) = w := by
  apply BitVec.eq_of_getLsbD_eq
  intro i hi
  simp only [formatXK, fieldOp, fieldX, fieldKk, regBits_toFin, BitVec.getLsbD_append, BitVec.getLsbD_extractLsb']
  interval_cases i <;> simp

theorem formatA_fields (w : Word) : formatA (fieldOp w) (fieldAddr w) = w := by
  apply BitVec.eq_of_getLsbD_eq
  intro i hi
  simp only [formatA, fieldOp, fieldAddr, BitVec.getLsbD_append, BitVec.getLsbD_extractLsb']
  interval_cases i <;> simp

theorem formatXYN_fields (w : Word) : formatXYN (fieldOp w) (fieldX w) (fieldY w) (fieldN w) = w := by
  apply BitVec.eq_of_getLsbD_eq
  intro i hi
  simp only [formatXYN, fieldOp, fieldX, fieldY, fieldN, regBits_toFin, BitVec.getLsbD_append,
    BitVec.getLsbD_extractLsb']
  interval_cases i <;> simp

/-! ### Words and bytes -/

@[simp] theorem wordOfBytes_high_low (w : Word) : wordOfBytes (highByte w) (lowByte w) = w := by
  apply BitVec.eq_of_getLsbD_eq
  intro i hi
  simp only [wordOfBytes, highByte, lowByte, BitVec.getLsbD_append, BitVec.getLsbD_extractLsb']
  interval_cases i <;> simp

@[simp] theorem highByte_wordOfBytes (hi lo : Byte) : highByte (wordOfBytes hi lo) = hi := by
  apply BitVec.eq_of_getLsbD_eq
  intro i h
  simp only [wordOfBytes, highByte, BitVec.getLsbD_append, BitVec.getLsbD_extractLsb']
  interval_cases i <;> simp

@[simp] theorem lowByte_wordOfBytes (hi lo : Byte) : lowByte (wordOfBytes hi lo) = lo := by
  apply BitVec.eq_of_getLsbD_eq
  intro i h
  simp only [wordOfBytes, lowByte, BitVec.getLsbD_append, BitVec.getLsbD_extractLsb']
  interval_cases i <;> simp

/-- Big-endian: the byte at the lower address counts 256 (R55). -/
theorem wordOfBytes_toNat (hi lo : Byte) : (wordOfBytes hi lo).toNat = 256 * hi.toNat + lo.toNat := by
  have := lo.isLt
  simp only [wordOfBytes, BitVec.toNat_append]
  rw [Nat.shiftLeft_eq, Nat.mul_comm, ← Nat.two_pow_add_eq_or_of_lt this]

/-! ### The decoder's errors -/

/-- The decoder refuses a word only as unknown, and names the word (R84, R201). -/
theorem decodeWord_error {w : Word} {e : DecodeError} (h : decodeWord w = .error e) : e = .unknownInstruction w := by
  unfold decodeWord at h
  split at h <;> (try split at h) <;> simp_all

end Sys2Proof
end

