-- ==== Sys2Proof/Laws/State.lean ====
section
/-! SUPPORT. One lemma per field of the state for every named update of it, and per way of reading the state that an update leaves
alone; all true by definition. -/

namespace Sys2Proof.Machine

variable (s : State)

/-! ### `setV` -/

@[simp] theorem State.setV_v (x : Reg) (b : Byte) : (s.setV x b).v = s.v.set x b := rfl
@[simp] theorem State.setV_i (x : Reg) (b : Byte) : (s.setV x b).i = s.i := rfl
@[simp] theorem State.setV_pc (x : Reg) (b : Byte) : (s.setV x b).pc = s.pc := rfl
@[simp] theorem State.setV_stack (x : Reg) (b : Byte) : (s.setV x b).stack = s.stack := rfl
@[simp] theorem State.setV_sp (x : Reg) (b : Byte) : (s.setV x b).sp = s.sp := rfl
@[simp] theorem State.setV_dt (x : Reg) (b : Byte) : (s.setV x b).dt = s.dt := rfl
@[simp] theorem State.setV_st (x : Reg) (b : Byte) : (s.setV x b).st = s.st := rfl
@[simp] theorem State.setV_mem (x : Reg) (b : Byte) : (s.setV x b).mem = s.mem := rfl
@[simp] theorem State.setV_fb (x : Reg) (b : Byte) : (s.setV x b).fb = s.fb := rfl
@[simp] theorem State.setV_wait (x : Reg) (b : Byte) : (s.setV x b).wait = s.wait := rfl
@[simp] theorem State.setV_fault (x : Reg) (b : Byte) : (s.setV x b).fault = s.fault := rfl
@[simp] theorem State.setV_glyphRom (x : Reg) (b : Byte) : (s.setV x b).glyphRom = s.glyphRom := rfl
@[simp] theorem State.setV_canLoad (x : Reg) (b : Byte) : (s.setV x b).canLoad = s.canLoad := rfl
@[simp] theorem State.setV_pending (x : Reg) (b : Byte) : (s.setV x b).pending = s.pending := rfl
@[simp] theorem State.setV_key (x : Reg) (b : Byte) : (s.setV x b).key = s.key := rfl
@[simp] theorem State.setV_rnd (x : Reg) (b : Byte) : (s.setV x b).rnd = s.rnd := rfl
@[simp] theorem State.setV_draws (x : Reg) (b : Byte) : (s.setV x b).draws = s.draws := rfl
@[simp] theorem State.setV_readByte (x : Reg) (b : Byte) (c : Word) : (s.setV x b).readByte c = s.readByte c := rfl
@[simp] theorem State.setV_indexAddr (x : Reg) (b : Byte) (k : Nat) : (s.setV x b).indexAddr k = s.indexAddr k := rfl
@[simp] theorem State.setV_stackCapacity (x : Reg) (b : Byte) : (s.setV x b).stackCapacity = s.stackCapacity := rfl

/-! ### `setVThenFlag` -/

@[simp] theorem State.setVThenFlag_v (x : Reg) (r f : Byte) : (s.setVThenFlag x r f).v = (s.v.set x r).set vf f := rfl
@[simp] theorem State.setVThenFlag_i (x : Reg) (r f : Byte) : (s.setVThenFlag x r f).i = s.i := rfl
@[simp] theorem State.setVThenFlag_pc (x : Reg) (r f : Byte) : (s.setVThenFlag x r f).pc = s.pc := rfl
@[simp] theorem State.setVThenFlag_stack (x : Reg) (r f : Byte) : (s.setVThenFlag x r f).stack = s.stack := rfl
@[simp] theorem State.setVThenFlag_sp (x : Reg) (r f : Byte) : (s.setVThenFlag x r f).sp = s.sp := rfl
@[simp] theorem State.setVThenFlag_dt (x : Reg) (r f : Byte) : (s.setVThenFlag x r f).dt = s.dt := rfl
@[simp] theorem State.setVThenFlag_st (x : Reg) (r f : Byte) : (s.setVThenFlag x r f).st = s.st := rfl
@[simp] theorem State.setVThenFlag_mem (x : Reg) (r f : Byte) : (s.setVThenFlag x r f).mem = s.mem := rfl
@[simp] theorem State.setVThenFlag_fb (x : Reg) (r f : Byte) : (s.setVThenFlag x r f).fb = s.fb := rfl
@[simp] theorem State.setVThenFlag_wait (x : Reg) (r f : Byte) : (s.setVThenFlag x r f).wait = s.wait := rfl
@[simp] theorem State.setVThenFlag_fault (x : Reg) (r f : Byte) : (s.setVThenFlag x r f).fault = s.fault := rfl
@[simp] theorem State.setVThenFlag_glyphRom (x : Reg) (r f : Byte) : (s.setVThenFlag x r f).glyphRom = s.glyphRom := rfl
@[simp] theorem State.setVThenFlag_canLoad (x : Reg) (r f : Byte) : (s.setVThenFlag x r f).canLoad = s.canLoad := rfl
@[simp] theorem State.setVThenFlag_pending (x : Reg) (r f : Byte) : (s.setVThenFlag x r f).pending = s.pending := rfl
@[simp] theorem State.setVThenFlag_key (x : Reg) (r f : Byte) : (s.setVThenFlag x r f).key = s.key := rfl
@[simp] theorem State.setVThenFlag_rnd (x : Reg) (r f : Byte) : (s.setVThenFlag x r f).rnd = s.rnd := rfl
@[simp] theorem State.setVThenFlag_draws (x : Reg) (r f : Byte) : (s.setVThenFlag x r f).draws = s.draws := rfl
@[simp] theorem State.setVThenFlag_readByte (x : Reg) (r f : Byte) (c : Word) : (s.setVThenFlag x r f).readByte c = s.readByte c := rfl
@[simp] theorem State.setVThenFlag_indexAddr (x : Reg) (r f : Byte) (k : Nat) : (s.setVThenFlag x r f).indexAddr k = s.indexAddr k := rfl
@[simp] theorem State.setVThenFlag_stackCapacity (x : Reg) (r f : Byte) : (s.setVThenFlag x r f).stackCapacity = s.stackCapacity := rfl

/-! ### `setI` -/

@[simp] theorem State.setI_v (a : Word) : (s.setI a).v = s.v := rfl
@[simp] theorem State.setI_i (a : Word) : (s.setI a).i = a := rfl
@[simp] theorem State.setI_pc (a : Word) : (s.setI a).pc = s.pc := rfl
@[simp] theorem State.setI_stack (a : Word) : (s.setI a).stack = s.stack := rfl
@[simp] theorem State.setI_sp (a : Word) : (s.setI a).sp = s.sp := rfl
@[simp] theorem State.setI_dt (a : Word) : (s.setI a).dt = s.dt := rfl
@[simp] theorem State.setI_st (a : Word) : (s.setI a).st = s.st := rfl
@[simp] theorem State.setI_mem (a : Word) : (s.setI a).mem = s.mem := rfl
@[simp] theorem State.setI_fb (a : Word) : (s.setI a).fb = s.fb := rfl
@[simp] theorem State.setI_wait (a : Word) : (s.setI a).wait = s.wait := rfl
@[simp] theorem State.setI_fault (a : Word) : (s.setI a).fault = s.fault := rfl
@[simp] theorem State.setI_glyphRom (a : Word) : (s.setI a).glyphRom = s.glyphRom := rfl
@[simp] theorem State.setI_canLoad (a : Word) : (s.setI a).canLoad = s.canLoad := rfl
@[simp] theorem State.setI_pending (a : Word) : (s.setI a).pending = s.pending := rfl
@[simp] theorem State.setI_key (a : Word) : (s.setI a).key = s.key := rfl
@[simp] theorem State.setI_rnd (a : Word) : (s.setI a).rnd = s.rnd := rfl
@[simp] theorem State.setI_draws (a : Word) : (s.setI a).draws = s.draws := rfl
@[simp] theorem State.setI_getV (a : Word) (r : Reg) : (s.setI a).getV r = s.getV r := rfl
@[simp] theorem State.setI_readByte (a : Word) (c : Word) : (s.setI a).readByte c = s.readByte c := rfl
@[simp] theorem State.setI_stackCapacity (a : Word) : (s.setI a).stackCapacity = s.stackCapacity := rfl

/-! ### `setDt` -/

@[simp] theorem State.setDt_v (b : Byte) : (s.setDt b).v = s.v := rfl
@[simp] theorem State.setDt_i (b : Byte) : (s.setDt b).i = s.i := rfl
@[simp] theorem State.setDt_pc (b : Byte) : (s.setDt b).pc = s.pc := rfl
@[simp] theorem State.setDt_stack (b : Byte) : (s.setDt b).stack = s.stack := rfl
@[simp] theorem State.setDt_sp (b : Byte) : (s.setDt b).sp = s.sp := rfl
@[simp] theorem State.setDt_dt (b : Byte) : (s.setDt b).dt = b := rfl
@[simp] theorem State.setDt_st (b : Byte) : (s.setDt b).st = s.st := rfl
@[simp] theorem State.setDt_mem (b : Byte) : (s.setDt b).mem = s.mem := rfl
@[simp] theorem State.setDt_fb (b : Byte) : (s.setDt b).fb = s.fb := rfl
@[simp] theorem State.setDt_wait (b : Byte) : (s.setDt b).wait = s.wait := rfl
@[simp] theorem State.setDt_fault (b : Byte) : (s.setDt b).fault = s.fault := rfl
@[simp] theorem State.setDt_glyphRom (b : Byte) : (s.setDt b).glyphRom = s.glyphRom := rfl
@[simp] theorem State.setDt_canLoad (b : Byte) : (s.setDt b).canLoad = s.canLoad := rfl
@[simp] theorem State.setDt_pending (b : Byte) : (s.setDt b).pending = s.pending := rfl
@[simp] theorem State.setDt_key (b : Byte) : (s.setDt b).key = s.key := rfl
@[simp] theorem State.setDt_rnd (b : Byte) : (s.setDt b).rnd = s.rnd := rfl
@[simp] theorem State.setDt_draws (b : Byte) : (s.setDt b).draws = s.draws := rfl
@[simp] theorem State.setDt_getV (b : Byte) (r : Reg) : (s.setDt b).getV r = s.getV r := rfl
@[simp] theorem State.setDt_readByte (b : Byte) (c : Word) : (s.setDt b).readByte c = s.readByte c := rfl
@[simp] theorem State.setDt_indexAddr (b : Byte) (k : Nat) : (s.setDt b).indexAddr k = s.indexAddr k := rfl
@[simp] theorem State.setDt_stackCapacity (b : Byte) : (s.setDt b).stackCapacity = s.stackCapacity := rfl

/-! ### `setSt` -/

@[simp] theorem State.setSt_v (b : Byte) : (s.setSt b).v = s.v := rfl
@[simp] theorem State.setSt_i (b : Byte) : (s.setSt b).i = s.i := rfl
@[simp] theorem State.setSt_pc (b : Byte) : (s.setSt b).pc = s.pc := rfl
@[simp] theorem State.setSt_stack (b : Byte) : (s.setSt b).stack = s.stack := rfl
@[simp] theorem State.setSt_sp (b : Byte) : (s.setSt b).sp = s.sp := rfl
@[simp] theorem State.setSt_dt (b : Byte) : (s.setSt b).dt = s.dt := rfl
@[simp] theorem State.setSt_st (b : Byte) : (s.setSt b).st = b := rfl
@[simp] theorem State.setSt_mem (b : Byte) : (s.setSt b).mem = s.mem := rfl
@[simp] theorem State.setSt_fb (b : Byte) : (s.setSt b).fb = s.fb := rfl
@[simp] theorem State.setSt_wait (b : Byte) : (s.setSt b).wait = s.wait := rfl
@[simp] theorem State.setSt_fault (b : Byte) : (s.setSt b).fault = s.fault := rfl
@[simp] theorem State.setSt_glyphRom (b : Byte) : (s.setSt b).glyphRom = s.glyphRom := rfl
@[simp] theorem State.setSt_canLoad (b : Byte) : (s.setSt b).canLoad = s.canLoad := rfl
@[simp] theorem State.setSt_pending (b : Byte) : (s.setSt b).pending = s.pending := rfl
@[simp] theorem State.setSt_key (b : Byte) : (s.setSt b).key = s.key := rfl
@[simp] theorem State.setSt_rnd (b : Byte) : (s.setSt b).rnd = s.rnd := rfl
@[simp] theorem State.setSt_draws (b : Byte) : (s.setSt b).draws = s.draws := rfl
@[simp] theorem State.setSt_getV (b : Byte) (r : Reg) : (s.setSt b).getV r = s.getV r := rfl
@[simp] theorem State.setSt_readByte (b : Byte) (c : Word) : (s.setSt b).readByte c = s.readByte c := rfl
@[simp] theorem State.setSt_indexAddr (b : Byte) (k : Nat) : (s.setSt b).indexAddr k = s.indexAddr k := rfl
@[simp] theorem State.setSt_stackCapacity (b : Byte) : (s.setSt b).stackCapacity = s.stackCapacity := rfl

/-! ### `setWait` -/

@[simp] theorem State.setWait_v (w : Wait) : (s.setWait w).v = s.v := rfl
@[simp] theorem State.setWait_i (w : Wait) : (s.setWait w).i = s.i := rfl
@[simp] theorem State.setWait_pc (w : Wait) : (s.setWait w).pc = s.pc := rfl
@[simp] theorem State.setWait_stack (w : Wait) : (s.setWait w).stack = s.stack := rfl
@[simp] theorem State.setWait_sp (w : Wait) : (s.setWait w).sp = s.sp := rfl
@[simp] theorem State.setWait_dt (w : Wait) : (s.setWait w).dt = s.dt := rfl
@[simp] theorem State.setWait_st (w : Wait) : (s.setWait w).st = s.st := rfl
@[simp] theorem State.setWait_mem (w : Wait) : (s.setWait w).mem = s.mem := rfl
@[simp] theorem State.setWait_fb (w : Wait) : (s.setWait w).fb = s.fb := rfl
@[simp] theorem State.setWait_wait (w : Wait) : (s.setWait w).wait = w := rfl
@[simp] theorem State.setWait_fault (w : Wait) : (s.setWait w).fault = s.fault := rfl
@[simp] theorem State.setWait_glyphRom (w : Wait) : (s.setWait w).glyphRom = s.glyphRom := rfl
@[simp] theorem State.setWait_canLoad (w : Wait) : (s.setWait w).canLoad = s.canLoad := rfl
@[simp] theorem State.setWait_pending (w : Wait) : (s.setWait w).pending = s.pending := rfl
@[simp] theorem State.setWait_key (w : Wait) : (s.setWait w).key = s.key := rfl
@[simp] theorem State.setWait_rnd (w : Wait) : (s.setWait w).rnd = s.rnd := rfl
@[simp] theorem State.setWait_draws (w : Wait) : (s.setWait w).draws = s.draws := rfl
@[simp] theorem State.setWait_getV (w : Wait) (r : Reg) : (s.setWait w).getV r = s.getV r := rfl
@[simp] theorem State.setWait_readByte (w : Wait) (c : Word) : (s.setWait w).readByte c = s.readByte c := rfl
@[simp] theorem State.setWait_indexAddr (w : Wait) (k : Nat) : (s.setWait w).indexAddr k = s.indexAddr k := rfl
@[simp] theorem State.setWait_stackCapacity (w : Wait) : (s.setWait w).stackCapacity = s.stackCapacity := rfl

/-! ### `setFb` -/

@[simp] theorem State.setFb_v (fb : FrameBuffer) : (s.setFb fb).v = s.v := rfl
@[simp] theorem State.setFb_i (fb : FrameBuffer) : (s.setFb fb).i = s.i := rfl
@[simp] theorem State.setFb_pc (fb : FrameBuffer) : (s.setFb fb).pc = s.pc := rfl
@[simp] theorem State.setFb_stack (fb : FrameBuffer) : (s.setFb fb).stack = s.stack := rfl
@[simp] theorem State.setFb_sp (fb : FrameBuffer) : (s.setFb fb).sp = s.sp := rfl
@[simp] theorem State.setFb_dt (fb : FrameBuffer) : (s.setFb fb).dt = s.dt := rfl
@[simp] theorem State.setFb_st (fb : FrameBuffer) : (s.setFb fb).st = s.st := rfl
@[simp] theorem State.setFb_mem (fb : FrameBuffer) : (s.setFb fb).mem = s.mem := rfl
@[simp] theorem State.setFb_fb (fb : FrameBuffer) : (s.setFb fb).fb = fb := rfl
@[simp] theorem State.setFb_wait (fb : FrameBuffer) : (s.setFb fb).wait = s.wait := rfl
@[simp] theorem State.setFb_fault (fb : FrameBuffer) : (s.setFb fb).fault = s.fault := rfl
@[simp] theorem State.setFb_glyphRom (fb : FrameBuffer) : (s.setFb fb).glyphRom = s.glyphRom := rfl
@[simp] theorem State.setFb_canLoad (fb : FrameBuffer) : (s.setFb fb).canLoad = s.canLoad := rfl
@[simp] theorem State.setFb_pending (fb : FrameBuffer) : (s.setFb fb).pending = s.pending := rfl
@[simp] theorem State.setFb_key (fb : FrameBuffer) : (s.setFb fb).key = s.key := rfl
@[simp] theorem State.setFb_rnd (fb : FrameBuffer) : (s.setFb fb).rnd = s.rnd := rfl
@[simp] theorem State.setFb_draws (fb : FrameBuffer) : (s.setFb fb).draws = s.draws := rfl
@[simp] theorem State.setFb_getV (fb : FrameBuffer) (r : Reg) : (s.setFb fb).getV r = s.getV r := rfl
@[simp] theorem State.setFb_readByte (fb : FrameBuffer) (c : Word) : (s.setFb fb).readByte c = s.readByte c := rfl
@[simp] theorem State.setFb_indexAddr (fb : FrameBuffer) (k : Nat) : (s.setFb fb).indexAddr k = s.indexAddr k := rfl
@[simp] theorem State.setFb_stackCapacity (fb : FrameBuffer) : (s.setFb fb).stackCapacity = s.stackCapacity := rfl

/-! ### `setStack` -/

@[simp] theorem State.setStack_v (stack : List Word) (sp : Nat) : (s.setStack stack sp).v = s.v := rfl
@[simp] theorem State.setStack_i (stack : List Word) (sp : Nat) : (s.setStack stack sp).i = s.i := rfl
@[simp] theorem State.setStack_pc (stack : List Word) (sp : Nat) : (s.setStack stack sp).pc = s.pc := rfl
@[simp] theorem State.setStack_stack (stack : List Word) (sp : Nat) : (s.setStack stack sp).stack = stack := rfl
@[simp] theorem State.setStack_sp (stack : List Word) (sp : Nat) : (s.setStack stack sp).sp = sp := rfl
@[simp] theorem State.setStack_dt (stack : List Word) (sp : Nat) : (s.setStack stack sp).dt = s.dt := rfl
@[simp] theorem State.setStack_st (stack : List Word) (sp : Nat) : (s.setStack stack sp).st = s.st := rfl
@[simp] theorem State.setStack_mem (stack : List Word) (sp : Nat) : (s.setStack stack sp).mem = s.mem := rfl
@[simp] theorem State.setStack_fb (stack : List Word) (sp : Nat) : (s.setStack stack sp).fb = s.fb := rfl
@[simp] theorem State.setStack_wait (stack : List Word) (sp : Nat) : (s.setStack stack sp).wait = s.wait := rfl
@[simp] theorem State.setStack_fault (stack : List Word) (sp : Nat) : (s.setStack stack sp).fault = s.fault := rfl
@[simp] theorem State.setStack_glyphRom (stack : List Word) (sp : Nat) : (s.setStack stack sp).glyphRom = s.glyphRom := rfl
@[simp] theorem State.setStack_canLoad (stack : List Word) (sp : Nat) : (s.setStack stack sp).canLoad = s.canLoad := rfl
@[simp] theorem State.setStack_pending (stack : List Word) (sp : Nat) : (s.setStack stack sp).pending = s.pending := rfl
@[simp] theorem State.setStack_key (stack : List Word) (sp : Nat) : (s.setStack stack sp).key = s.key := rfl
@[simp] theorem State.setStack_rnd (stack : List Word) (sp : Nat) : (s.setStack stack sp).rnd = s.rnd := rfl
@[simp] theorem State.setStack_draws (stack : List Word) (sp : Nat) : (s.setStack stack sp).draws = s.draws := rfl
@[simp] theorem State.setStack_getV (stack : List Word) (sp : Nat) (r : Reg) : (s.setStack stack sp).getV r = s.getV r := rfl
@[simp] theorem State.setStack_readByte (stack : List Word) (sp : Nat) (c : Word) : (s.setStack stack sp).readByte c = s.readByte c := rfl
@[simp] theorem State.setStack_indexAddr (stack : List Word) (sp : Nat) (k : Nat) : (s.setStack stack sp).indexAddr k = s.indexAddr k := rfl
@[simp] theorem State.setStack_stackCapacity (stack : List Word) (sp : Nat) : (s.setStack stack sp).stackCapacity = stack.length := rfl

/-! ### `writeByte` -/

@[simp] theorem State.writeByte_v (a : Word) (b : Byte) : (s.writeByte a b).v = s.v := rfl
@[simp] theorem State.writeByte_i (a : Word) (b : Byte) : (s.writeByte a b).i = s.i := rfl
@[simp] theorem State.writeByte_pc (a : Word) (b : Byte) : (s.writeByte a b).pc = s.pc := rfl
@[simp] theorem State.writeByte_stack (a : Word) (b : Byte) : (s.writeByte a b).stack = s.stack := rfl
@[simp] theorem State.writeByte_sp (a : Word) (b : Byte) : (s.writeByte a b).sp = s.sp := rfl
@[simp] theorem State.writeByte_dt (a : Word) (b : Byte) : (s.writeByte a b).dt = s.dt := rfl
@[simp] theorem State.writeByte_st (a : Word) (b : Byte) : (s.writeByte a b).st = s.st := rfl
@[simp] theorem State.writeByte_mem (a : Word) (b : Byte) : (s.writeByte a b).mem = Memory.write s.glyphRom s.mem (portAddr a) b := rfl
@[simp] theorem State.writeByte_fb (a : Word) (b : Byte) : (s.writeByte a b).fb = s.fb := rfl
@[simp] theorem State.writeByte_wait (a : Word) (b : Byte) : (s.writeByte a b).wait = s.wait := rfl
@[simp] theorem State.writeByte_fault (a : Word) (b : Byte) : (s.writeByte a b).fault = s.fault := rfl
@[simp] theorem State.writeByte_glyphRom (a : Word) (b : Byte) : (s.writeByte a b).glyphRom = s.glyphRom := rfl
@[simp] theorem State.writeByte_canLoad (a : Word) (b : Byte) : (s.writeByte a b).canLoad = s.canLoad := rfl
@[simp] theorem State.writeByte_pending (a : Word) (b : Byte) : (s.writeByte a b).pending = s.pending := rfl
@[simp] theorem State.writeByte_key (a : Word) (b : Byte) : (s.writeByte a b).key = s.key := rfl
@[simp] theorem State.writeByte_rnd (a : Word) (b : Byte) : (s.writeByte a b).rnd = s.rnd := rfl
@[simp] theorem State.writeByte_draws (a : Word) (b : Byte) : (s.writeByte a b).draws = s.draws := rfl
@[simp] theorem State.writeByte_getV (a : Word) (b : Byte) (r : Reg) : (s.writeByte a b).getV r = s.getV r := rfl
@[simp] theorem State.writeByte_indexAddr (a : Word) (b : Byte) (k : Nat) : (s.writeByte a b).indexAddr k = s.indexAddr k := rfl
@[simp] theorem State.writeByte_stackCapacity (a : Word) (b : Byte) : (s.writeByte a b).stackCapacity = s.stackCapacity := rfl

/-! ### `goTo` -/

@[simp] theorem State.goTo_v (n : NextPc) : (s.goTo n).v = s.v := rfl
@[simp] theorem State.goTo_i (n : NextPc) : (s.goTo n).i = s.i := rfl
@[simp] theorem State.goTo_pc (n : NextPc) : (s.goTo n).pc = n.target s.pc := rfl
@[simp] theorem State.goTo_stack (n : NextPc) : (s.goTo n).stack = s.stack := rfl
@[simp] theorem State.goTo_sp (n : NextPc) : (s.goTo n).sp = s.sp := rfl
@[simp] theorem State.goTo_dt (n : NextPc) : (s.goTo n).dt = s.dt := rfl
@[simp] theorem State.goTo_st (n : NextPc) : (s.goTo n).st = s.st := rfl
@[simp] theorem State.goTo_mem (n : NextPc) : (s.goTo n).mem = s.mem := rfl
@[simp] theorem State.goTo_fb (n : NextPc) : (s.goTo n).fb = s.fb := rfl
@[simp] theorem State.goTo_wait (n : NextPc) : (s.goTo n).wait = s.wait := rfl
@[simp] theorem State.goTo_fault (n : NextPc) : (s.goTo n).fault = s.fault := rfl
@[simp] theorem State.goTo_glyphRom (n : NextPc) : (s.goTo n).glyphRom = s.glyphRom := rfl
@[simp] theorem State.goTo_canLoad (n : NextPc) : (s.goTo n).canLoad = s.canLoad := rfl
@[simp] theorem State.goTo_pending (n : NextPc) : (s.goTo n).pending = s.pending := rfl
@[simp] theorem State.goTo_key (n : NextPc) : (s.goTo n).key = s.key := rfl
@[simp] theorem State.goTo_rnd (n : NextPc) : (s.goTo n).rnd = s.rnd := rfl
@[simp] theorem State.goTo_draws (n : NextPc) : (s.goTo n).draws = s.draws := rfl
@[simp] theorem State.goTo_getV (n : NextPc) (r : Reg) : (s.goTo n).getV r = s.getV r := rfl
@[simp] theorem State.goTo_readByte (n : NextPc) (c : Word) : (s.goTo n).readByte c = s.readByte c := rfl
@[simp] theorem State.goTo_indexAddr (n : NextPc) (k : Nat) : (s.goTo n).indexAddr k = s.indexAddr k := rfl
@[simp] theorem State.goTo_stackCapacity (n : NextPc) : (s.goTo n).stackCapacity = s.stackCapacity := rfl

/-! ### `raise` -/

@[simp] theorem State.raise_v (f : FaultLatch) : (s.raise f).v = s.v := rfl
@[simp] theorem State.raise_i (f : FaultLatch) : (s.raise f).i = s.i := rfl
@[simp] theorem State.raise_pc (f : FaultLatch) : (s.raise f).pc = s.pc := rfl
@[simp] theorem State.raise_stack (f : FaultLatch) : (s.raise f).stack = s.stack := rfl
@[simp] theorem State.raise_sp (f : FaultLatch) : (s.raise f).sp = s.sp := rfl
@[simp] theorem State.raise_dt (f : FaultLatch) : (s.raise f).dt = s.dt := rfl
@[simp] theorem State.raise_st (f : FaultLatch) : (s.raise f).st = s.st := rfl
@[simp] theorem State.raise_mem (f : FaultLatch) : (s.raise f).mem = s.mem := rfl
@[simp] theorem State.raise_fb (f : FaultLatch) : (s.raise f).fb = s.fb := rfl
@[simp] theorem State.raise_wait (f : FaultLatch) : (s.raise f).wait = s.wait := rfl
@[simp] theorem State.raise_fault (f : FaultLatch) : (s.raise f).fault = f := rfl
@[simp] theorem State.raise_glyphRom (f : FaultLatch) : (s.raise f).glyphRom = s.glyphRom := rfl
@[simp] theorem State.raise_canLoad (f : FaultLatch) : (s.raise f).canLoad = s.canLoad := rfl
@[simp] theorem State.raise_pending (f : FaultLatch) : (s.raise f).pending = s.pending := rfl
@[simp] theorem State.raise_key (f : FaultLatch) : (s.raise f).key = s.key := rfl
@[simp] theorem State.raise_rnd (f : FaultLatch) : (s.raise f).rnd = s.rnd := rfl
@[simp] theorem State.raise_draws (f : FaultLatch) : (s.raise f).draws = s.draws := rfl
@[simp] theorem State.raise_getV (f : FaultLatch) (r : Reg) : (s.raise f).getV r = s.getV r := rfl
@[simp] theorem State.raise_readByte (f : FaultLatch) (c : Word) : (s.raise f).readByte c = s.readByte c := rfl
@[simp] theorem State.raise_indexAddr (f : FaultLatch) (k : Nat) : (s.raise f).indexAddr k = s.indexAddr k := rfl
@[simp] theorem State.raise_stackCapacity (f : FaultLatch) : (s.raise f).stackCapacity = s.stackCapacity := rfl

/-! ### `supply` -/

@[simp] theorem State.supply_v (key : Option Nibble) (rnd : Byte) : (s.supply key rnd).v = s.v := rfl
@[simp] theorem State.supply_i (key : Option Nibble) (rnd : Byte) : (s.supply key rnd).i = s.i := rfl
@[simp] theorem State.supply_pc (key : Option Nibble) (rnd : Byte) : (s.supply key rnd).pc = s.pc := rfl
@[simp] theorem State.supply_stack (key : Option Nibble) (rnd : Byte) : (s.supply key rnd).stack = s.stack := rfl
@[simp] theorem State.supply_sp (key : Option Nibble) (rnd : Byte) : (s.supply key rnd).sp = s.sp := rfl
@[simp] theorem State.supply_dt (key : Option Nibble) (rnd : Byte) : (s.supply key rnd).dt = s.dt := rfl
@[simp] theorem State.supply_st (key : Option Nibble) (rnd : Byte) : (s.supply key rnd).st = s.st := rfl
@[simp] theorem State.supply_mem (key : Option Nibble) (rnd : Byte) : (s.supply key rnd).mem = s.mem := rfl
@[simp] theorem State.supply_fb (key : Option Nibble) (rnd : Byte) : (s.supply key rnd).fb = s.fb := rfl
@[simp] theorem State.supply_wait (key : Option Nibble) (rnd : Byte) : (s.supply key rnd).wait = s.wait := rfl
@[simp] theorem State.supply_fault (key : Option Nibble) (rnd : Byte) : (s.supply key rnd).fault = s.fault := rfl
@[simp] theorem State.supply_glyphRom (key : Option Nibble) (rnd : Byte) : (s.supply key rnd).glyphRom = s.glyphRom := rfl
@[simp] theorem State.supply_canLoad (key : Option Nibble) (rnd : Byte) : (s.supply key rnd).canLoad = false := rfl
@[simp] theorem State.supply_pending (key : Option Nibble) (rnd : Byte) : (s.supply key rnd).pending = s.pending := rfl
@[simp] theorem State.supply_key (key : Option Nibble) (rnd : Byte) : (s.supply key rnd).key = key := rfl
@[simp] theorem State.supply_rnd (key : Option Nibble) (rnd : Byte) : (s.supply key rnd).rnd = rnd := rfl
@[simp] theorem State.supply_draws (key : Option Nibble) (rnd : Byte) : (s.supply key rnd).draws = s.draws := rfl
@[simp] theorem State.supply_getV (key : Option Nibble) (rnd : Byte) (r : Reg) : (s.supply key rnd).getV r = s.getV r := rfl
@[simp] theorem State.supply_readByte (key : Option Nibble) (rnd : Byte) (c : Word) : (s.supply key rnd).readByte c = s.readByte c := rfl
@[simp] theorem State.supply_indexAddr (key : Option Nibble) (rnd : Byte) (k : Nat) : (s.supply key rnd).indexAddr k = s.indexAddr k := rfl
@[simp] theorem State.supply_stackCapacity (key : Option Nibble) (rnd : Byte) : (s.supply key rnd).stackCapacity = s.stackCapacity := rfl

/-! ### `consume` -/

@[simp] theorem State.consume_v (es : List Event) : (s.consume es).v = s.v := rfl
@[simp] theorem State.consume_i (es : List Event) : (s.consume es).i = s.i := rfl
@[simp] theorem State.consume_pc (es : List Event) : (s.consume es).pc = s.pc := rfl
@[simp] theorem State.consume_stack (es : List Event) : (s.consume es).stack = s.stack := rfl
@[simp] theorem State.consume_sp (es : List Event) : (s.consume es).sp = s.sp := rfl
@[simp] theorem State.consume_dt (es : List Event) : (s.consume es).dt = s.dt := rfl
@[simp] theorem State.consume_st (es : List Event) : (s.consume es).st = s.st := rfl
@[simp] theorem State.consume_mem (es : List Event) : (s.consume es).mem = s.mem := rfl
@[simp] theorem State.consume_fb (es : List Event) : (s.consume es).fb = s.fb := rfl
@[simp] theorem State.consume_wait (es : List Event) : (s.consume es).wait = s.wait := rfl
@[simp] theorem State.consume_fault (es : List Event) : (s.consume es).fault = s.fault := rfl
@[simp] theorem State.consume_glyphRom (es : List Event) : (s.consume es).glyphRom = s.glyphRom := rfl
@[simp] theorem State.consume_canLoad (es : List Event) : (s.consume es).canLoad = s.canLoad := rfl
@[simp] theorem State.consume_pending (es : List Event) : (s.consume es).pending = es := rfl
@[simp] theorem State.consume_key (es : List Event) : (s.consume es).key = s.key := rfl
@[simp] theorem State.consume_rnd (es : List Event) : (s.consume es).rnd = s.rnd := rfl
@[simp] theorem State.consume_draws (es : List Event) : (s.consume es).draws = s.draws := rfl
@[simp] theorem State.consume_getV (es : List Event) (r : Reg) : (s.consume es).getV r = s.getV r := rfl
@[simp] theorem State.consume_readByte (es : List Event) (c : Word) : (s.consume es).readByte c = s.readByte c := rfl
@[simp] theorem State.consume_indexAddr (es : List Event) (k : Nat) : (s.consume es).indexAddr k = s.indexAddr k := rfl
@[simp] theorem State.consume_stackCapacity (es : List Event) : (s.consume es).stackCapacity = s.stackCapacity := rfl

/-! ### `ticks` -/

@[simp] theorem State.ticks_v (n : Nat) : (s.ticks n).v = s.v := rfl
@[simp] theorem State.ticks_i (n : Nat) : (s.ticks n).i = s.i := rfl
@[simp] theorem State.ticks_pc (n : Nat) : (s.ticks n).pc = s.pc := rfl
@[simp] theorem State.ticks_stack (n : Nat) : (s.ticks n).stack = s.stack := rfl
@[simp] theorem State.ticks_sp (n : Nat) : (s.ticks n).sp = s.sp := rfl
@[simp] theorem State.ticks_dt (n : Nat) : (s.ticks n).dt = timerAfter s.dt n := rfl
@[simp] theorem State.ticks_st (n : Nat) : (s.ticks n).st = timerAfter s.st n := rfl
@[simp] theorem State.ticks_mem (n : Nat) : (s.ticks n).mem = s.mem := rfl
@[simp] theorem State.ticks_fb (n : Nat) : (s.ticks n).fb = s.fb := rfl
@[simp] theorem State.ticks_wait (n : Nat) : (s.ticks n).wait = s.wait := rfl
@[simp] theorem State.ticks_fault (n : Nat) : (s.ticks n).fault = s.fault := rfl
@[simp] theorem State.ticks_glyphRom (n : Nat) : (s.ticks n).glyphRom = s.glyphRom := rfl
@[simp] theorem State.ticks_canLoad (n : Nat) : (s.ticks n).canLoad = s.canLoad := rfl
@[simp] theorem State.ticks_pending (n : Nat) : (s.ticks n).pending = s.pending := rfl
@[simp] theorem State.ticks_key (n : Nat) : (s.ticks n).key = s.key := rfl
@[simp] theorem State.ticks_rnd (n : Nat) : (s.ticks n).rnd = s.rnd := rfl
@[simp] theorem State.ticks_draws (n : Nat) : (s.ticks n).draws = s.draws := rfl
@[simp] theorem State.ticks_getV (n : Nat) (r : Reg) : (s.ticks n).getV r = s.getV r := rfl
@[simp] theorem State.ticks_readByte (n : Nat) (c : Word) : (s.ticks n).readByte c = s.readByte c := rfl
@[simp] theorem State.ticks_indexAddr (n : Nat) (k : Nat) : (s.ticks n).indexAddr k = s.indexAddr k := rfl
@[simp] theorem State.ticks_stackCapacity (n : Nat) : (s.ticks n).stackCapacity = s.stackCapacity := rfl

/-! ### `tick` -/

@[simp] theorem State.tick_v : (s.tick).v = s.v := rfl
@[simp] theorem State.tick_i : (s.tick).i = s.i := rfl
@[simp] theorem State.tick_pc : (s.tick).pc = s.pc := rfl
@[simp] theorem State.tick_stack : (s.tick).stack = s.stack := rfl
@[simp] theorem State.tick_sp : (s.tick).sp = s.sp := rfl
@[simp] theorem State.tick_dt : (s.tick).dt = if s.dt = 0 then s.dt else s.dt - 1 := rfl
@[simp] theorem State.tick_st : (s.tick).st = if s.st = 0 then s.st else s.st - 1 := rfl
@[simp] theorem State.tick_mem : (s.tick).mem = s.mem := rfl
@[simp] theorem State.tick_fb : (s.tick).fb = s.fb := rfl
@[simp] theorem State.tick_wait : (s.tick).wait = s.wait := rfl
@[simp] theorem State.tick_fault : (s.tick).fault = s.fault := rfl
@[simp] theorem State.tick_glyphRom : (s.tick).glyphRom = s.glyphRom := rfl
@[simp] theorem State.tick_canLoad : (s.tick).canLoad = s.canLoad := rfl
@[simp] theorem State.tick_pending : (s.tick).pending = s.pending := rfl
@[simp] theorem State.tick_key : (s.tick).key = s.key := rfl
@[simp] theorem State.tick_rnd : (s.tick).rnd = s.rnd := rfl
@[simp] theorem State.tick_draws : (s.tick).draws = s.draws := rfl
@[simp] theorem State.tick_getV (r : Reg) : (s.tick).getV r = s.getV r := rfl
@[simp] theorem State.tick_readByte (c : Word) : (s.tick).readByte c = s.readByte c := rfl
@[simp] theorem State.tick_indexAddr (k : Nat) : (s.tick).indexAddr k = s.indexAddr k := rfl
@[simp] theorem State.tick_stackCapacity : (s.tick).stackCapacity = s.stackCapacity := rfl

/-! ### `loadEvent` -/

@[simp] theorem State.loadEvent_v (bs : List Byte) : (s.loadEvent bs).v = s.v := rfl
@[simp] theorem State.loadEvent_i (bs : List Byte) : (s.loadEvent bs).i = s.i := rfl
@[simp] theorem State.loadEvent_pc (bs : List Byte) : (s.loadEvent bs).pc = s.pc := rfl
@[simp] theorem State.loadEvent_stack (bs : List Byte) : (s.loadEvent bs).stack = s.stack := rfl
@[simp] theorem State.loadEvent_sp (bs : List Byte) : (s.loadEvent bs).sp = s.sp := rfl
@[simp] theorem State.loadEvent_dt (bs : List Byte) : (s.loadEvent bs).dt = s.dt := rfl
@[simp] theorem State.loadEvent_st (bs : List Byte) : (s.loadEvent bs).st = s.st := rfl
@[simp] theorem State.loadEvent_mem (bs : List Byte) : (s.loadEvent bs).mem = Memory.copyFrom s.glyphRom s.mem Config.programBase bs := rfl
@[simp] theorem State.loadEvent_fb (bs : List Byte) : (s.loadEvent bs).fb = s.fb := rfl
@[simp] theorem State.loadEvent_wait (bs : List Byte) : (s.loadEvent bs).wait = s.wait := rfl
@[simp] theorem State.loadEvent_fault (bs : List Byte) : (s.loadEvent bs).fault = s.fault := rfl
@[simp] theorem State.loadEvent_glyphRom (bs : List Byte) : (s.loadEvent bs).glyphRom = s.glyphRom := rfl
@[simp] theorem State.loadEvent_canLoad (bs : List Byte) : (s.loadEvent bs).canLoad = false := rfl
@[simp] theorem State.loadEvent_pending (bs : List Byte) : (s.loadEvent bs).pending = s.pending := rfl
@[simp] theorem State.loadEvent_key (bs : List Byte) : (s.loadEvent bs).key = s.key := rfl
@[simp] theorem State.loadEvent_rnd (bs : List Byte) : (s.loadEvent bs).rnd = s.rnd := rfl
@[simp] theorem State.loadEvent_draws (bs : List Byte) : (s.loadEvent bs).draws = s.draws := rfl
@[simp] theorem State.loadEvent_getV (bs : List Byte) (r : Reg) : (s.loadEvent bs).getV r = s.getV r := rfl
@[simp] theorem State.loadEvent_indexAddr (bs : List Byte) (k : Nat) : (s.loadEvent bs).indexAddr k = s.indexAddr k := rfl
@[simp] theorem State.loadEvent_stackCapacity (bs : List Byte) : (s.loadEvent bs).stackCapacity = s.stackCapacity := rfl

end Sys2Proof.Machine
end

