-- ==== Sys2Proof/Laws/Memory.lean ====
section
/-! SUPPORT. The laws of memory: what each operation does to reading, and that each keeps the canonical form. -/

namespace Sys2Proof.Machine

variable {rom : Vector Byte Config.glyphBytes} {m : Memory}

/-! ### Reading -/

theorem Memory.lookup_unlist (m : Memory) (a c : Nat) :
    Memory.lookup c (Memory.unlist a m) = if c = a then none else Memory.lookup c m := by
  induction m with
  | nil => simp [Memory.unlist, Memory.lookup]
  | cons d m ih =>
    by_cases hd : d.1 = a
    · by_cases hc : c = a
      · simpa [Memory.unlist, hd, hc] using ih
      · have : ¬ a = c := fun h => hc h.symm
        simp [Memory.unlist, Memory.lookup, hd, ih, hc, this]
    · by_cases hc : c = a
      · subst hc
        simp [Memory.unlist, Memory.lookup, hd, ih]
      · simp [Memory.unlist, Memory.lookup, hd, ih, hc]

theorem Memory.lookup_place (m : Memory) (a : Nat) (b : Byte) (c : Nat) (h : Memory.lookup a m = none) :
    Memory.lookup c (Memory.place a b m) = if c = a then some b else Memory.lookup c m := by
  induction m with
  | nil => simp [Memory.place, Memory.lookup, eq_comm]
  | cons d m ih =>
    have hd : ¬ d.1 = a := fun e => by simp [Memory.lookup, e] at h
    have hm : Memory.lookup a m = none := by simpa [Memory.lookup, hd] using h
    by_cases hlt : a < d.1
    · simp [Memory.place, Memory.lookup, hlt, eq_comm]
    · by_cases hc : d.1 = c
      · subst hc
        simp [Memory.place, Memory.lookup, hlt, hd]
      · simp [Memory.place, Memory.lookup, hlt, hc, ih hm]

/-- Reading after a write: the byte written at its address, the old byte everywhere else. -/
theorem Memory.read_write (rom : Vector Byte Config.glyphBytes) (m : Memory) (a : Nat) (b : Byte) (c : Nat) :
    (Memory.write rom m a b).read rom c = if c = a then b else m.read rom c := by
  unfold Memory.write Memory.read
  by_cases hb : b = Memory.unlisted rom a
  · by_cases hc : c = a <;> simp [hb, hc, Memory.lookup_unlist]
  · have hn : Memory.lookup a (Memory.unlist a m) = none := by simp [Memory.lookup_unlist]
    by_cases hc : c = a <;> simp [hb, hc, Memory.lookup_unlist, Memory.lookup_place _ _ _ _ hn]

theorem Memory.read_nil (rom : Vector Byte Config.glyphBytes) (a : Nat) :
    Memory.read rom [] a = Memory.unlisted rom a := rfl

/-! ### The canonical form -/

theorem Memory.mem_unlist {a : Nat} {c : Host.Cell} : c ∈ Memory.unlist a m ↔ c ∈ m ∧ c.1 ≠ a := by
  induction m with
  | nil => simp [Memory.unlist]
  | cons d m ih =>
    by_cases hd : d.1 = a
    · simp only [Memory.unlist, hd, if_true, ih, List.mem_cons]
      constructor
      · rintro ⟨h, hne⟩
        exact ⟨.inr h, hne⟩
      · rintro ⟨rfl | h, hne⟩
        · exact absurd hd hne
        · exact ⟨h, hne⟩
    · simp only [Memory.unlist, hd, if_false, List.mem_cons, ih]
      constructor
      · rintro (rfl | ⟨h, hne⟩)
        · exact ⟨.inl rfl, hd⟩
        · exact ⟨.inr h, hne⟩
      · rintro ⟨rfl | h, hne⟩
        · exact .inl rfl
        · exact .inr ⟨h, hne⟩

theorem Memory.mem_place {a : Nat} {b : Byte} {c : Host.Cell} : c ∈ Memory.place a b m ↔ c = (a, b) ∨ c ∈ m := by
  induction m with
  | nil => simp [Memory.place]
  | cons d m ih =>
    by_cases hlt : a < d.1
    · simp [Memory.place, hlt]
    · simp only [Memory.place, hlt, if_false, List.mem_cons, ih]
      tauto

theorem Memory.sorted_unlist (a : Nat) (h : m.Pairwise fun c d => c.1 < d.1) :
    (Memory.unlist a m).Pairwise fun c d => c.1 < d.1 := by
  induction m with
  | nil => exact h
  | cons d m ih =>
    rw [List.pairwise_cons] at h
    by_cases hd : d.1 = a
    · simpa [Memory.unlist, hd] using ih h.2
    · simp only [Memory.unlist, hd, if_false, List.pairwise_cons]
      exact ⟨fun c hc => h.1 c (Memory.mem_unlist.mp hc).1, ih h.2⟩

theorem Memory.sorted_place {a : Nat} {b : Byte} (hm : ∀ c ∈ m, c.1 ≠ a)
    (h : m.Pairwise fun c d => c.1 < d.1) : (Memory.place a b m).Pairwise fun c d => c.1 < d.1 := by
  induction m with
  | nil => simp [Memory.place]
  | cons d m ih =>
    rw [List.pairwise_cons] at h
    by_cases hlt : a < d.1
    · simp only [Memory.place, hlt, if_true, List.pairwise_cons, List.mem_cons]
      refine ⟨?_, h⟩
      rintro c (rfl | hc)
      · exact hlt
      · exact hlt.trans (h.1 c hc)
    · have hda : d.1 < a := by
        have := hm d (by simp)
        omega
      simp only [Memory.place, hlt, if_false, List.pairwise_cons]
      refine ⟨fun c hc => ?_, ih (fun c hc => hm c (by simp [hc])) h.2⟩
      rcases Memory.mem_place.mp hc with rfl | hc
      · exact hda
      · exact h.1 c hc

theorem Memory.wf_nil (rom : Vector Byte Config.glyphBytes) : Memory.wf rom [] := by
  simp [Memory.wf]

theorem Memory.wf_unlist (a : Nat) (h : Memory.wf rom m) : Memory.wf rom (Memory.unlist a m) :=
  ⟨Memory.sorted_unlist a h.1, fun c hc => h.2 c (Memory.mem_unlist.mp hc).1⟩

/-- A write keeps the canonical form. -/
theorem Memory.wf_write {a : Nat} (b : Byte) (ha : a < Config.memSize) (h : Memory.wf rom m) :
    Memory.wf rom (Memory.write rom m a b) := by
  have he := Memory.wf_unlist a h
  unfold Memory.write
  split
  · exact he
  · rename_i hb
    refine ⟨Memory.sorted_place (fun c hc => (Memory.mem_unlist.mp hc).2) he.1, fun c hc => ?_⟩
    rcases Memory.mem_place.mp hc with rfl | hc
    · exact ⟨ha, hb⟩
    · exact he.2 c hc

/-- Copying a program in keeps the canonical form. -/
theorem Memory.wf_copyFrom (bs : List Byte) : ∀ {m : Memory} (a : Nat), Memory.wf rom m →
    Memory.wf rom (Memory.copyFrom rom m a bs) := by
  induction bs with
  | nil => exact fun _ h => h
  | cons b bs ih =>
    intro m a h
    unfold Memory.copyFrom
    split
    · rename_i ha
      exact ih _ (Memory.wf_write b ha h)
    · exact ih _ h

/-! ### Memory in the state -/

theorem portAddr_lt (a : Word) : portAddr a < Config.memSize := Nat.mod_lt _ (by decide)

/-- Reading after a byte store: the byte stored wherever the port reaches the same byte, the old one elsewhere (R52, R53). -/
theorem State.readByte_writeByte (s : State) (a : Word) (b : Byte) (c : Word) :
    (s.writeByte a b).readByte c = if portAddr c = portAddr a then b else s.readByte c :=
  Memory.read_write _ _ _ _ _

theorem State.writeByte_wf_mem {s : State} (a : Word) (b : Byte) (h : Memory.wf s.glyphRom s.mem) :
    Memory.wf (s.writeByte a b).glyphRom (s.writeByte a b).mem :=
  Memory.wf_write b (portAddr_lt a) h

end Sys2Proof.Machine
end

