-- ==== Sys2Proof/Laws/Ops.lean ====
section
/-! SUPPORT. One lemma per shared operation that says everything it can do: registers, program counter, stack, frame buffer,
drawing, timers, loading, reset. -/

namespace Sys2Proof.Machine

/-! ### Registers -/

@[simp] theorem State.getV_setV (s : State) (x : Reg) (b : Byte) (r : Reg) :
    (s.setV x b).getV r = if r = x then b else s.getV r := by
  simp only [State.getV, State.setV, Fin.getElem_fin, Vector.getElem_set]
  by_cases h : r = x
  · subst h
    simp
  · have : ¬ x.val = r.val := fun e => h (Fin.ext e.symm)
    simp [h, this]

/-- The flag is written last: it is what remains when the result register is `VF` (R10). -/
theorem State.getV_setVThenFlag (s : State) (x : Reg) (result flag : Byte) (r : Reg) :
    (s.setVThenFlag x result flag).getV r = if r = vf then flag else if r = x then result else s.getV r := by
  simp only [State.setVThenFlag, State.getV_setV]

/-! ### The program counter -/

@[simp] theorem NextPc.target_advance (pc : Word) : NextPc.advance.target pc = pc + 2 := rfl
@[simp] theorem NextPc.target_skip (pc : Word) : NextPc.skip.target pc = pc + 4 := rfl
@[simp] theorem NextPc.target_setTo (pc a : Word) : (NextPc.setTo a).target pc = a := rfl

@[simp] theorem NextPc.target_skipWhen (pc : Word) (c : Bool) :
    (NextPc.skipWhen c).target pc = if c then pc + 4 else pc + 2 := by
  cases c <;> rfl

/-- An instruction that completes answers the state with the policy applied. -/
theorem State.finish_next (s : State) (n : NextPc) : s.finish n = .next (s.goTo n) := rfl

theorem State.takeFault_next (s : State) (f : FaultLatch) : s.takeFault f = .next (s.raise f) := rfl

/-! ### The stack -/

/-- Everything `push` can do (R27). -/
theorem State.push_cases (s : State) (a : Word) :
    (s.sp < s.stackCapacity ∧ s.push a = .ok (s.setStack (s.stack.set s.sp a) (s.sp + 1))) ∨
    (s.sp = s.stackCapacity ∧ s.push a = .raises .stackOverflow) ∨
    (s.stackCapacity < s.sp ∧ s.push a = .outOfRange) := by
  unfold State.push
  rcases Nat.lt_trichotomy s.sp s.stackCapacity with h | h | h
  · exact .inl ⟨h, by simp [h]⟩
  · exact .inr (.inl ⟨h, by simp [h]⟩)
  · exact .inr (.inr ⟨h, by rw [if_neg (by omega), if_neg (by omega)]⟩)

/-- Everything `pop` can do (R27). -/
theorem State.pop_cases (s : State) :
    (s.sp = 0 ∧ s.pop = .raises .stackUnderflow) ∨
    (0 < s.sp ∧ s.sp ≤ s.stackCapacity ∧
      ∃ a, s.stack[s.sp - 1]? = some a ∧ s.pop = .ok (a, s.setStack s.stack (s.sp - 1))) ∨
    (s.stackCapacity < s.sp ∧ s.pop = .outOfRange) := by
  unfold State.pop State.stackCapacity
  by_cases h0 : s.sp = 0
  · exact .inl ⟨h0, by simp [h0]⟩
  · by_cases hle : s.sp ≤ s.stack.length
    · have hlt : s.sp - 1 < s.stack.length := by omega
      exact .inr (.inl ⟨by omega, hle, s.stack[s.sp - 1], by simp [hlt], by simp [h0, hlt]⟩)
    · exact .inr (.inr ⟨by omega, by simp [h0, show s.stack.length ≤ s.sp - 1 by omega]⟩)

/-! ### The frame buffer -/

theorem FrameBuffer.pixel_toggle (fb : FrameBuffer) (px py qx qy : Nat) :
    (fb.toggle px py).pixel qx qy =
      (fb.pixel qx qy ^^ (decide (qx % 64 = px % 64) && decide (qy % 32 = py % 32))) := by
  simp only [FrameBuffer.toggle, FrameBuffer.pixel, Fin.getElem_fin, Fin.val_ofNat, Vector.getElem_set]
  by_cases hy : qy % 32 = py % 32
  · by_cases hx : qx % 64 = px % 64
    · simp [hx, hy]
    · simp [hx, hy, Ne.symm hx]
  · simp [hy, Ne.symm hy]

theorem FrameBuffer.pixel_clear (px py : Nat) : FrameBuffer.clear.pixel px py = false := by
  simp [FrameBuffer.clear, FrameBuffer.pixel]

/-- Two frame buffers with the same pixels are the same. -/
theorem FrameBuffer.ext_pixel {a b : FrameBuffer} (h : ∀ px py, a.pixel px py = b.pixel px py) : a = b := by
  apply Vector.ext
  intro py hpy
  apply Vector.ext
  intro px hpx
  have := h px py
  simpa [FrameBuffer.pixel, Nat.mod_eq_of_lt hpx, Nat.mod_eq_of_lt hpy] using this

/-- One sprite bit: its pixel is toggled if the bit is 1, and hits if it was set (R102). -/
theorem Canvas.plot_pixel (c : Canvas) (px py : Nat) (bit : Bool) (qx qy : Nat) :
    (c.plot px py bit).fb.pixel qx qy =
      (c.fb.pixel qx qy ^^ (bit && decide (qx % 64 = px % 64) && decide (qy % 32 = py % 32))) := by
  cases bit <;> simp [Canvas.plot, FrameBuffer.pixel_toggle]

theorem Canvas.plot_hit (c : Canvas) (px py : Nat) (bit : Bool) :
    (c.plot px py bit).hit = (c.hit || (bit && c.fb.pixel px py)) := by
  cases bit <;> simp [Canvas.plot]

/-! ### Timers -/

/-- A timer counts down to 0 and stays there (R28, R211). -/
theorem timerAfter_toNat (b : Byte) (n : Nat) : (timerAfter b n).toNat = b.toNat - n := by
  simp only [timerAfter, BitVec.toNat_ofNat]
  have := b.isLt
  omega

@[simp] theorem timerAfter_zero (b : Byte) : timerAfter b 0 = b := by
  simp [timerAfter]

/-- `tick` is one tick (R211). -/
theorem State.tick_eq_ticks (s : State) : s.tick = s.ticks 1 := by
  have h (b : Byte) : (if b = 0 then b else b - 1) = timerAfter b 1 := by
    apply BitVec.eq_of_toNat_eq
    rw [timerAfter_toNat]
    split
    · rename_i h
      simp [h]
    · rename_i h
      have : b.toNat ≠ 0 := fun e => h (BitVec.eq_of_toNat_eq (by simpa using e))
      have := b.isLt
      rw [BitVec.toNat_sub, show (1 : Byte).toNat = 1 from rfl]
      omega
  simp only [State.tick, State.ticks, h]

/-! ### Loading -/

/-- Copying bytes in from address `a` on changes just the addresses they go to, none beyond 0xFFF (R41). -/
theorem Memory.read_copyFrom (rom : Vector Byte Config.glyphBytes) (bs : List Byte) :
    ∀ (m : Memory) (a c : Nat), c < Config.memSize →
      Memory.read rom (Memory.copyFrom rom m a bs) c =
        if a ≤ c then (bs[c - a]?).getD (Memory.read rom m c) else Memory.read rom m c := by
  induction bs with
  | nil => simp [Memory.copyFrom]
  | cons b bs ih =>
    intro m a c hc
    rw [Memory.copyFrom, ih _ _ _ hc]
    have hread : Memory.read rom (if a < Config.memSize then Memory.write rom m a b else m) c =
        if c = a then b else Memory.read rom m c := by
      split
      · exact Memory.read_write ..
      · rename_i ha
        have : c ≠ a := fun e => ha (e ▸ hc)
        simp [this]
    rw [hread]
    rcases Nat.lt_trichotomy a c with h | h | h
    · have hs : c - a = (c - (a + 1)) + 1 := by omega
      rw [if_pos (show a + 1 ≤ c from h), if_neg (show c ≠ a by omega), if_pos (show a ≤ c by omega), hs,
        List.getElem?_cons_succ]
    · subst h
      simp
    · rw [if_neg (show ¬ a + 1 ≤ c by omega), if_neg (show c ≠ a by omega), if_neg (show ¬ a ≤ c by omega)]

/-! ### Reset -/

/-- What reset leaves (R36): the spec's state is that of a machine just reset, whatever it was. -/
theorem State.resetEvent_eq (s : State) :
    s.resetEvent =
      { State.resetWith s.glyphRom s.stack.length with
        pending := s.pending, key := s.key, rnd := s.rnd, draws := s.draws } := rfl

@[simp] theorem State.resetEvent_pending (s : State) : s.resetEvent.pending = s.pending := rfl
@[simp] theorem State.resetEvent_glyphRom (s : State) : s.resetEvent.glyphRom = s.glyphRom := rfl
@[simp] theorem State.resetEvent_stackCapacity (s : State) : s.resetEvent.stackCapacity = s.stackCapacity := by
  simp [State.resetEvent, State.resetWith, State.stackCapacity]

/-- Memory after reset: the glyphs from 0x000 to 0x04F and zero above (R36). -/
theorem State.readByte_resetWith (rom : Vector Byte Config.glyphBytes) (capacity : Nat) (a : Word) :
    (State.resetWith rom capacity).readByte a = Memory.unlisted rom (portAddr a) := rfl

end Sys2Proof.Machine
end

