-- ==== Sys2Proof/Laws/Operands.lean ====
section
/-! SUPPORT. What the operand forms are as numbers, and what the multi-byte stores and loads do. -/

namespace Sys2Proof.Machine

theorem addrWord_toNat (addr : Addr) : (addrWord addr).toNat = addr.toNat := by
  have := addr.isLt
  simp only [addrWord, BitVec.toNat_setWidth]
  omega

theorem byteWord_toNat (b : Byte) : (byteWord b).toNat = b.toNat := by
  have := b.isLt
  simp only [byteWord, BitVec.toNat_setWidth]
  omega

theorem keyByte_toNat (k : Nibble) : (keyByte k).toNat = k.toNat := by
  have := k.isLt
  simp only [keyByte, BitVec.toNat_setWidth]
  omega

theorem glyphAddr_toNat (b : Byte) : (glyphAddr b).toNat = b.toNat * 5 := by
  have := b.isLt
  rw [glyphAddr, BitVec.toNat_mul, byteWord_toNat, show (5 : Word).toNat = 5 from rfl]
  omega

theorem hundreds_toNat (b : Byte) : (hundreds b).toNat = b.toNat / 100 := by
  have := b.isLt
  simp only [hundreds, BitVec.toNat_ofNat]
  omega

theorem tens_toNat (b : Byte) : (tens b).toNat = b.toNat / 10 % 10 := by
  simp only [tens, BitVec.toNat_ofNat]
  omega

theorem units_toNat (b : Byte) : (units b).toNat = b.toNat % 10 := by
  simp only [units, BitVec.toNat_ofNat]
  omega

/-- The byte an `I`-relative access reaches (R54). -/
theorem portAddr_indexAddr (s : State) (k : Nat) : portAddr (s.indexAddr k) = (s.i.toNat + k) % 4096 := by
  simp only [portAddr, State.indexAddr, BitVec.toNat_add, BitVec.toNat_ofNat, Config.memSize]
  omega

/-- Fewer than 4096 successive `I`-relative addresses reach different bytes. -/
theorem portAddr_indexAddr_inj (s : State) {j k : Nat} (hj : j < 4096) (hk : k < 4096)
    (h : portAddr (s.indexAddr j) = portAddr (s.indexAddr k)) : j = k := by
  rw [portAddr_indexAddr, portAddr_indexAddr] at h
  omega

theorem blockReg_val {k : Nat} (h : k < 16) : (blockReg k).val = k := by
  simp [blockReg, Nat.mod_eq_of_lt h]

theorem blockReg_of_val (r : Reg) : blockReg r.val = r := by
  simp [blockReg]

/-! ### Stores -/

theorem State.storeBlock_succ (s : State) (n : Nat) :
    s.storeBlock (n + 1) =
      (s.storeBlock n).writeByte ((s.storeBlock n).indexAddr n) ((s.storeBlock n).getV (blockReg n)) := by
  simp [State.storeBlock, List.range_succ]

/-- A block store changes memory and nothing else. -/
theorem State.storeBlock_eq (s : State) (n : Nat) : s.storeBlock n = { s with mem := (s.storeBlock n).mem } := by
  induction n with
  | zero => simp [State.storeBlock]
  | succ n ih =>
    rw [State.storeBlock_succ]
    unfold State.writeByte
    rw [ih]

@[simp] theorem State.storeBlock_getV (s : State) (n : Nat) (r : Reg) : (s.storeBlock n).getV r = s.getV r := by
  rw [State.storeBlock_eq]; rfl

@[simp] theorem State.storeBlock_indexAddr (s : State) (n k : Nat) : (s.storeBlock n).indexAddr k = s.indexAddr k := by
  rw [State.storeBlock_eq]; rfl

/-- A block store leaves every byte outside the block alone. -/
theorem State.readByte_storeBlock_outside (s : State) (n : Nat) (a : Word)
    (h : ∀ k < n, portAddr a ≠ portAddr (s.indexAddr k)) : (s.storeBlock n).readByte a = s.readByte a := by
  induction n with
  | zero => simp [State.storeBlock]
  | succ n ih =>
    rw [State.storeBlock_succ, State.readByte_writeByte, State.storeBlock_indexAddr, if_neg (h n (by omega))]
    exact ih fun k hk => h k (by omega)

/-- A block store puts `V[k]` at `I + k` (R156). -/
theorem State.readByte_storeBlock (s : State) (n k : Nat) (a : Word) (hn : n ≤ 16) (hk : k < n)
    (ha : portAddr a = portAddr (s.indexAddr k)) : (s.storeBlock n).readByte a = s.getV (blockReg k) := by
  induction n with
  | zero => omega
  | succ n ih =>
    rw [State.storeBlock_succ, State.readByte_writeByte, State.storeBlock_indexAddr, State.storeBlock_getV, ha]
    by_cases h : k = n
    · simp [h]
    · rw [if_neg fun e => h (portAddr_indexAddr_inj s (by omega) (by omega) e)]
      exact ih (by omega) (by omega)

theorem State.storeBlock_wf_mem {s : State} (n : Nat) (h : Memory.wf s.glyphRom s.mem) :
    Memory.wf s.glyphRom (s.storeBlock n).mem := by
  induction n with
  | zero => exact h
  | succ n ih =>
    have hg : (s.storeBlock n).glyphRom = s.glyphRom := by rw [State.storeBlock_eq]
    rw [State.storeBlock_succ, State.writeByte_mem, hg]
    exact Memory.wf_write _ (portAddr_lt _) ih

/-- Storing the digits changes memory and nothing else. -/
theorem State.storeDigits_eq (s : State) (b : Byte) : s.storeDigits b = { s with mem := (s.storeDigits b).mem } := rfl

/-- Storing the digits: each at its place, every other byte as it was (R154). -/
theorem State.readByte_storeDigits (s : State) (b : Byte) (a : Word) :
    (s.storeDigits b).readByte a =
      if portAddr a = portAddr (s.indexAddr 2) then units b
      else if portAddr a = portAddr (s.indexAddr 1) then tens b
      else if portAddr a = portAddr (s.indexAddr 0) then hundreds b
      else s.readByte a := by
  simp only [State.storeDigits, State.readByte_writeByte, State.writeByte_indexAddr]

theorem State.storeDigits_wf_mem {s : State} (b : Byte) (h : Memory.wf s.glyphRom s.mem) :
    Memory.wf s.glyphRom (s.storeDigits b).mem :=
  Memory.wf_write _ (portAddr_lt _) (Memory.wf_write _ (portAddr_lt _) (Memory.wf_write _ (portAddr_lt _) h))

/-! ### Loads -/

theorem State.loadBlock_succ (s : State) (n : Nat) :
    s.loadBlock (n + 1) =
      (s.loadBlock n).setV (blockReg n) ((s.loadBlock n).readByte ((s.loadBlock n).indexAddr n)) := by
  simp [State.loadBlock, List.range_succ]

/-- A block load changes registers and nothing else. -/
theorem State.loadBlock_eq (s : State) (n : Nat) : s.loadBlock n = { s with v := (s.loadBlock n).v } := by
  induction n with
  | zero => simp [State.loadBlock]
  | succ n ih =>
    rw [State.loadBlock_succ]
    unfold State.setV
    rw [ih]

@[simp] theorem State.loadBlock_readByte (s : State) (n : Nat) (a : Word) :
    (s.loadBlock n).readByte a = s.readByte a := by
  rw [State.loadBlock_eq]; rfl

@[simp] theorem State.loadBlock_indexAddr (s : State) (n k : Nat) : (s.loadBlock n).indexAddr k = s.indexAddr k := by
  rw [State.loadBlock_eq]; rfl

/-- A block load puts the byte at `I + k` into `V[k]`, and leaves the registers above the block alone (R157). -/
theorem State.getV_loadBlock (s : State) (n : Nat) (r : Reg) (hn : n ≤ 16) :
    (s.loadBlock n).getV r = if r.val < n then s.readByte (s.indexAddr r.val) else s.getV r := by
  induction n with
  | zero => simp [State.loadBlock]
  | succ n ih =>
    rw [State.loadBlock_succ, State.getV_setV, State.loadBlock_readByte, State.loadBlock_indexAddr, ih (by omega)]
    by_cases h : r = blockReg n
    · have hv : r.val = n := by rw [h, blockReg_val (by omega)]
      simp [h, blockReg_val (show n < 16 by omega)]
    · have hv : r.val ≠ n := fun e => h (by rw [← e, blockReg_of_val])
      have : (r.val < n + 1) = (r.val < n) := by
        apply propext
        omega
      simp [h, this]

/-! ### The fields a block transfer leaves alone -/
@[simp] theorem State.storeBlock_v (s : State) (n : Nat) : (s.storeBlock n).v = s.v := by rw [State.storeBlock_eq]
@[simp] theorem State.storeBlock_i (s : State) (n : Nat) : (s.storeBlock n).i = s.i := by rw [State.storeBlock_eq]
@[simp] theorem State.storeBlock_pc (s : State) (n : Nat) : (s.storeBlock n).pc = s.pc := by rw [State.storeBlock_eq]
@[simp] theorem State.storeBlock_stack (s : State) (n : Nat) : (s.storeBlock n).stack = s.stack := by rw [State.storeBlock_eq]
@[simp] theorem State.storeBlock_sp (s : State) (n : Nat) : (s.storeBlock n).sp = s.sp := by rw [State.storeBlock_eq]
@[simp] theorem State.storeBlock_dt (s : State) (n : Nat) : (s.storeBlock n).dt = s.dt := by rw [State.storeBlock_eq]
@[simp] theorem State.storeBlock_st (s : State) (n : Nat) : (s.storeBlock n).st = s.st := by rw [State.storeBlock_eq]
@[simp] theorem State.storeBlock_fb (s : State) (n : Nat) : (s.storeBlock n).fb = s.fb := by rw [State.storeBlock_eq]
@[simp] theorem State.storeBlock_wait (s : State) (n : Nat) : (s.storeBlock n).wait = s.wait := by rw [State.storeBlock_eq]
@[simp] theorem State.storeBlock_fault (s : State) (n : Nat) : (s.storeBlock n).fault = s.fault := by rw [State.storeBlock_eq]
@[simp] theorem State.storeBlock_glyphRom (s : State) (n : Nat) : (s.storeBlock n).glyphRom = s.glyphRom := by rw [State.storeBlock_eq]
@[simp] theorem State.storeBlock_canLoad (s : State) (n : Nat) : (s.storeBlock n).canLoad = s.canLoad := by rw [State.storeBlock_eq]
@[simp] theorem State.storeBlock_pending (s : State) (n : Nat) : (s.storeBlock n).pending = s.pending := by rw [State.storeBlock_eq]
@[simp] theorem State.storeBlock_key (s : State) (n : Nat) : (s.storeBlock n).key = s.key := by rw [State.storeBlock_eq]
@[simp] theorem State.storeBlock_rnd (s : State) (n : Nat) : (s.storeBlock n).rnd = s.rnd := by rw [State.storeBlock_eq]
@[simp] theorem State.storeBlock_draws (s : State) (n : Nat) : (s.storeBlock n).draws = s.draws := by rw [State.storeBlock_eq]
@[simp] theorem State.loadBlock_i (s : State) (n : Nat) : (s.loadBlock n).i = s.i := by rw [State.loadBlock_eq]
@[simp] theorem State.loadBlock_pc (s : State) (n : Nat) : (s.loadBlock n).pc = s.pc := by rw [State.loadBlock_eq]
@[simp] theorem State.loadBlock_stack (s : State) (n : Nat) : (s.loadBlock n).stack = s.stack := by rw [State.loadBlock_eq]
@[simp] theorem State.loadBlock_sp (s : State) (n : Nat) : (s.loadBlock n).sp = s.sp := by rw [State.loadBlock_eq]
@[simp] theorem State.loadBlock_dt (s : State) (n : Nat) : (s.loadBlock n).dt = s.dt := by rw [State.loadBlock_eq]
@[simp] theorem State.loadBlock_st (s : State) (n : Nat) : (s.loadBlock n).st = s.st := by rw [State.loadBlock_eq]
@[simp] theorem State.loadBlock_mem (s : State) (n : Nat) : (s.loadBlock n).mem = s.mem := by rw [State.loadBlock_eq]
@[simp] theorem State.loadBlock_fb (s : State) (n : Nat) : (s.loadBlock n).fb = s.fb := by rw [State.loadBlock_eq]
@[simp] theorem State.loadBlock_wait (s : State) (n : Nat) : (s.loadBlock n).wait = s.wait := by rw [State.loadBlock_eq]
@[simp] theorem State.loadBlock_fault (s : State) (n : Nat) : (s.loadBlock n).fault = s.fault := by rw [State.loadBlock_eq]
@[simp] theorem State.loadBlock_glyphRom (s : State) (n : Nat) : (s.loadBlock n).glyphRom = s.glyphRom := by rw [State.loadBlock_eq]
@[simp] theorem State.loadBlock_canLoad (s : State) (n : Nat) : (s.loadBlock n).canLoad = s.canLoad := by rw [State.loadBlock_eq]
@[simp] theorem State.loadBlock_pending (s : State) (n : Nat) : (s.loadBlock n).pending = s.pending := by rw [State.loadBlock_eq]
@[simp] theorem State.loadBlock_key (s : State) (n : Nat) : (s.loadBlock n).key = s.key := by rw [State.loadBlock_eq]
@[simp] theorem State.loadBlock_rnd (s : State) (n : Nat) : (s.loadBlock n).rnd = s.rnd := by rw [State.loadBlock_eq]
@[simp] theorem State.loadBlock_draws (s : State) (n : Nat) : (s.loadBlock n).draws = s.draws := by rw [State.loadBlock_eq]
@[simp] theorem State.storeDigits_v (s : State) (b : Byte) : (s.storeDigits b).v = s.v := rfl
@[simp] theorem State.storeDigits_i (s : State) (b : Byte) : (s.storeDigits b).i = s.i := rfl
@[simp] theorem State.storeDigits_pc (s : State) (b : Byte) : (s.storeDigits b).pc = s.pc := rfl
@[simp] theorem State.storeDigits_stack (s : State) (b : Byte) : (s.storeDigits b).stack = s.stack := rfl
@[simp] theorem State.storeDigits_sp (s : State) (b : Byte) : (s.storeDigits b).sp = s.sp := rfl
@[simp] theorem State.storeDigits_dt (s : State) (b : Byte) : (s.storeDigits b).dt = s.dt := rfl
@[simp] theorem State.storeDigits_st (s : State) (b : Byte) : (s.storeDigits b).st = s.st := rfl
@[simp] theorem State.storeDigits_fb (s : State) (b : Byte) : (s.storeDigits b).fb = s.fb := rfl
@[simp] theorem State.storeDigits_wait (s : State) (b : Byte) : (s.storeDigits b).wait = s.wait := rfl
@[simp] theorem State.storeDigits_fault (s : State) (b : Byte) : (s.storeDigits b).fault = s.fault := rfl
@[simp] theorem State.storeDigits_glyphRom (s : State) (b : Byte) : (s.storeDigits b).glyphRom = s.glyphRom := rfl
@[simp] theorem State.storeDigits_canLoad (s : State) (b : Byte) : (s.storeDigits b).canLoad = s.canLoad := rfl
@[simp] theorem State.storeDigits_pending (s : State) (b : Byte) : (s.storeDigits b).pending = s.pending := rfl
@[simp] theorem State.storeDigits_key (s : State) (b : Byte) : (s.storeDigits b).key = s.key := rfl
@[simp] theorem State.storeDigits_rnd (s : State) (b : Byte) : (s.storeDigits b).rnd = s.rnd := rfl
@[simp] theorem State.storeDigits_draws (s : State) (b : Byte) : (s.storeDigits b).draws = s.draws := rfl
@[simp] theorem State.storeDigits_getV (s : State) (b : Byte) (r : Reg) : (s.storeDigits b).getV r = s.getV r := rfl

/-! ### The row bytes of a sprite -/

theorem State.indexBytes_length (s : State) (n : Nat) : (s.indexBytes n).length = n := by
  simp [State.indexBytes]

theorem State.indexBytes_getD (s : State) {n r : Nat} (h : r < n) :
    (s.indexBytes n).getD r 0 = s.readByte (s.indexAddr r) := by
  simp [State.indexBytes, h]

/-! ### The key -/

/-- The current key is the one `V[x]` names exactly when there is one and it is equal to the whole byte (R171). -/
theorem State.keyIs_iff (s : State) (x : Reg) :
    s.keyIs x = true ↔ ∃ k, s.key = some k ∧ k.toNat = (s.getV x).toNat := by
  unfold State.keyIs
  cases hk : s.key with
  | none => simp
  | some k =>
    simp only [beq_iff_eq, Option.some.injEq, exists_eq_left']
    rw [← BitVec.toNat_inj, keyByte_toNat]

end Sys2Proof.Machine
end

