-- ==== Sys2Proof/Laws/Display.lean ====
section
/-! SUPPORT. What drawing a sprite does: a list of bits at different pixels, then the rows of a sprite (spec 40_display.md R102). -/

namespace Sys2Proof.Machine

/-- One bit of a sprite with the place it is drawn at, before wrapping. -/
structure Dot where
  px : Nat
  py : Nat
  bit : Bool

/-- The bit is a 1 and falls on pixel (`qx`, `qy`), both coordinates wrapped. -/
def Dot.covers (d : Dot) (qx qy : Nat) : Bool :=
  d.bit && decide (qx % 64 = d.px % 64) && decide (qy % 32 = d.py % 32)

/-- The two bits are drawn at different pixels. -/
def Dot.apart (d e : Dot) : Prop := ¬ (d.px % 64 = e.px % 64 ∧ d.py % 32 = e.py % 32)

/-- Plot bits one after another. -/
def Canvas.plotDots (c : Canvas) (dots : List Dot) : Canvas := dots.foldl (fun c d => c.plot d.px d.py d.bit) c

theorem FrameBuffer.pixel_congr (fb : FrameBuffer) {px py qx qy : Nat} (hx : px % 64 = qx % 64)
    (hy : py % 32 = qy % 32) : fb.pixel px py = fb.pixel qx qy := by
  simp [FrameBuffer.pixel, hx, hy]

theorem FrameBuffer.pixel_mod (fb : FrameBuffer) (px py : Nat) : fb.pixel (px % 64) (py % 32) = fb.pixel px py :=
  fb.pixel_congr (Nat.mod_mod ..) (Nat.mod_mod ..)

/-- Bits at different pixels: each pixel is toggled if one of them covers it, and there is a hit exactly when one of them falls on a
pixel that was set before the first (R102). -/
theorem Canvas.plotDots_spec (dots : List Dot) : ∀ c : Canvas, dots.Pairwise Dot.apart →
    (∀ qx qy, (c.plotDots dots).fb.pixel qx qy = (c.fb.pixel qx qy ^^ dots.any fun d => d.covers qx qy)) ∧
    (c.plotDots dots).hit = (c.hit || dots.any fun d => d.bit && c.fb.pixel d.px d.py) := by
  induction dots with
  | nil => simp [Canvas.plotDots]
  | cons d dots ih =>
    intro c h
    rw [List.pairwise_cons] at h
    obtain ⟨hp, hh⟩ := ih (c.plot d.px d.py d.bit) h.2
    have hcons : c.plotDots (d :: dots) = (c.plot d.px d.py d.bit).plotDots dots := rfl
    constructor
    · intro qx qy
      rw [hcons, hp, Canvas.plot_pixel, List.any_cons, Bool.xor_assoc]
      congr 1
      by_cases hc : d.covers qx qy = true
      · have hn : (dots.any fun e => e.covers qx qy) = false := by
          rw [List.any_eq_false]
          intro e he hcov
          simp only [Dot.covers, Bool.and_eq_true, decide_eq_true_eq] at hc hcov
          exact h.1 e he ⟨by omega, by omega⟩
        rw [hn, Bool.xor_false, Bool.or_false, Dot.covers]
      · rw [Bool.not_eq_true] at hc
        rw [hc, Bool.false_or]
        rw [Dot.covers] at hc
        rw [hc, Bool.false_xor]
    · rw [hcons, hh, Canvas.plot_hit, List.any_cons, Bool.or_assoc]
      congr 2
      rw [Bool.eq_iff_iff, List.any_eq_true, List.any_eq_true]
      have hpix : ∀ e ∈ dots, (c.plot d.px d.py d.bit).fb.pixel e.px e.py = c.fb.pixel e.px e.py := by
        intro e he
        have hap := h.1 e he
        rw [Canvas.plot_pixel]
        by_cases hx : e.px % 64 = d.px % 64
        · by_cases hy : e.py % 32 = d.py % 32
          · exact (hap ⟨hx.symm, hy.symm⟩).elim
          · simp [hy]
        · simp [hx]
      exact ⟨fun ⟨e, he, hb⟩ => ⟨e, he, by rwa [hpix e he] at hb⟩, fun ⟨e, he, hb⟩ => ⟨e, he, by rwa [hpix e he]⟩⟩

/-- The bits of a sprite of `n` rows whose bytes `row` gives, with their places. -/
def spriteDots (x0 y0 n : Nat) (row : Nat → Byte) : List Dot :=
  (List.range n).flatMap fun r => (List.range 8).map fun k => ⟨x0 + k, y0 + r, (row r).getLsbD (7 - k)⟩

theorem Canvas.plotRows_eq (c : Canvas) (x0 y0 : Nat) (rows : List Byte) :
    c.plotRows x0 y0 rows = c.plotDots (spriteDots x0 y0 rows.length fun r => rows.getD r 0) := by
  simp only [Canvas.plotRows, Canvas.plotRow, Canvas.plotDots, spriteDots, List.foldl_flatMap, List.foldl_map]

/-- The bits of a sprite of at most 32 rows fall on different pixels. -/
theorem spriteDots_apart (x0 y0 n : Nat) (row : Nat → Byte) (hn : n ≤ 32) :
    (spriteDots x0 y0 n row).Pairwise Dot.apart := by
  unfold spriteDots
  rw [List.pairwise_flatMap]
  constructor
  · intro r _
    rw [List.pairwise_map]
    apply List.Pairwise.imp_of_mem ?_ List.pairwise_lt_range
    intro a b ha hb hab hap
    have := hap.1
    have := List.mem_range.mp ha
    have := List.mem_range.mp hb
    simp only at *
    omega
  · apply List.Pairwise.imp_of_mem ?_ List.pairwise_lt_range
    intro r r' hr hr' hlt d hd e he hap
    obtain ⟨k, _, rfl⟩ := List.mem_map.mp hd
    obtain ⟨k', _, rfl⟩ := List.mem_map.mp he
    have := hap.2
    have := List.mem_range.mp hr
    have := List.mem_range.mp hr'
    simp only at *
    omega

/-- Drawing a sprite of at most 32 rows: each pixel is toggled if a bit of the sprite covers it, and the hit is that of the pixels set
before under the sprite's 1 bits (R102). -/
theorem Canvas.plotRows_spec (c : Canvas) (x0 y0 : Nat) (rows : List Byte) (hn : rows.length ≤ 32) :
    (∀ qx qy, (c.plotRows x0 y0 rows).fb.pixel qx qy =
      (c.fb.pixel qx qy ^^
        (spriteDots x0 y0 rows.length fun r => rows.getD r 0).any fun d => d.covers qx qy)) ∧
    (c.plotRows x0 y0 rows).hit =
      (c.hit || (spriteDots x0 y0 rows.length fun r => rows.getD r 0).any fun d => d.bit && c.fb.pixel d.px d.py) := by
  rw [Canvas.plotRows_eq]
  exact Canvas.plotDots_spec _ c (spriteDots_apart _ _ _ _ hn)

end Sys2Proof.Machine
end

