-- ==== Sys2Proof/Laws/Flags.lean ====
section
/-! SUPPORT. What the ALU's results and flags are as numbers (spec 42_alu.md R142). -/

namespace Sys2Proof.Machine

/-- A flag is 0 or 1 (R22). -/
theorem flagByte_cases (b : Bool) : flagByte b = 0 ∨ flagByte b = 1 := by
  cases b <;> simp [flagByte]

theorem sum9_toNat (a b : Byte) : (sum9 a b).toNat = a.toNat + b.toNat := by
  have := a.isLt
  have := b.isLt
  simp only [sum9, BitVec.toNat_add, BitVec.toNat_setWidth]
  omega

theorem sumByte_toNat (a b : Byte) : (sumByte a b).toNat = (a.toNat + b.toNat) % 256 := by
  simp [sumByte, sum9_toNat]

/-- The carry is bit 8 of the sum: 1 exactly when the sum exceeds 255 (R142). -/
theorem carryFlag_eq (a b : Byte) : carryFlag a b = if 255 < a.toNat + b.toNat then 1 else 0 := by
  have ha := a.isLt
  have hb := b.isLt
  have h : (sum9 a b).getLsbD 8 = decide (255 < a.toNat + b.toNat) := by
    rw [BitVec.getLsbD, sum9_toNat, Nat.testBit_eq_decide_div_mod_eq, decide_eq_decide]
    omega
  simp only [carryFlag, h, flagByte, decide_eq_true_eq]

theorem diffByte_toNat (a b : Byte) :
    (diffByte a b).toNat = if b.toNat ≤ a.toNat then a.toNat - b.toNat else a.toNat + 256 - b.toNat := by
  have := a.isLt
  have := b.isLt
  simp only [diffByte, BitVec.toNat_sub]
  split <;> omega

theorem noBorrowFlag_eq (a b : Byte) : noBorrowFlag a b = if b.toNat ≤ a.toNat then 1 else 0 := by
  simp [noBorrowFlag, flagByte]

theorem shrByte_toNat (a : Byte) : (shrByte a).toNat = a.toNat / 2 := by
  simp [shrByte, Nat.shiftRight_eq_div_pow]

theorem shrFlag_toNat (a : Byte) : (shrFlag a).toNat = a.toNat % 2 := by
  have h : a.getLsbD 0 = decide (a.toNat % 2 = 1) := by
    rw [BitVec.getLsbD, Nat.testBit_eq_decide_div_mod_eq, decide_eq_decide]
    omega
  simp only [shrFlag, h, flagByte, decide_eq_true_eq]
  split <;> simp <;> omega

theorem shlByte_toNat (a : Byte) : (shlByte a).toNat = 2 * a.toNat % 256 := by
  simp [shlByte, Nat.shiftLeft_eq, Nat.mul_comm]

theorem shlFlag_toNat (a : Byte) : (shlFlag a).toNat = a.toNat / 128 := by
  have := a.isLt
  have h : a.getLsbD 7 = decide (a.toNat / 128 = 1) := by
    rw [BitVec.getLsbD, Nat.testBit_eq_decide_div_mod_eq, decide_eq_decide]
    omega
  simp only [shlFlag, h, flagByte, decide_eq_true_eq]
  split <;> simp <;> omega

end Sys2Proof.Machine
end

