-- ==== Sys2Proof/Laws/Exec.lean ====
section
/-! SUPPORT. Everything an instruction's execution can do, said once: the two stack instructions by cases, and all of them together. -/

namespace Sys2Proof.Machine

/-- Everything `CALL` can do (R113). -/
theorem execCall_cases (addr : Addr) (s : State) :
    (s.sp < s.stackCapacity ∧
      execCall addr s =
        .next ((s.setStack (s.stack.set s.sp (s.pc + 2)) (s.sp + 1)).goTo (.setTo (addrWord addr)))) ∨
    (s.sp = s.stackCapacity ∧ execCall addr s = .next (s.raise .stackOverflow)) ∨
    (s.stackCapacity < s.sp ∧ execCall addr s = .fault .stackPointerOutOfRange) := by
  unfold execCall
  rcases s.push_cases (NextPc.advance.target s.pc) with ⟨h, hp⟩ | ⟨h, hp⟩ | ⟨h, hp⟩ <;> rw [hp]
  · exact .inl ⟨h, rfl⟩
  · exact .inr (.inl ⟨h, rfl⟩)
  · exact .inr (.inr ⟨h, rfl⟩)

/-- Everything `RET` can do (R111). -/
theorem execRet_cases (s : State) :
    (s.sp = 0 ∧ execRet s = .next (s.raise .stackUnderflow)) ∨
    (0 < s.sp ∧ s.sp ≤ s.stackCapacity ∧
      ∃ a, s.stack[s.sp - 1]? = some a ∧ execRet s = .next ((s.setStack s.stack (s.sp - 1)).goTo (.setTo a))) ∨
    (s.stackCapacity < s.sp ∧ execRet s = .fault .stackPointerOutOfRange) := by
  unfold execRet
  rcases s.pop_cases with ⟨h, hp⟩ | ⟨h, h', a, ha, hp⟩ | ⟨h, hp⟩ <;> rw [hp]
  · exact .inl ⟨h, rfl⟩
  · exact .inr (.inl ⟨h, h', a, ha, rfl⟩)
  · exact .inr (.inr ⟨h, rfl⟩)

/-- Everything an instruction can do to `PC`, `FAULT`, the shape of the stack and the form of memory: it completes and applies its
policy, or `CALL` or `RET` raises, or `SP` is out of range. -/
theorem exec_cases (i : Instr) (s : State) :
    (∃ (u : State) (n : NextPc), exec i s = .next (u.goTo n) ∧ u.pc = s.pc ∧ u.fault = s.fault ∧ u.stackCapacity = s.stackCapacity ∧
      (u.sp ≤ u.stackCapacity ∨ u.sp = s.sp) ∧ u.glyphRom = s.glyphRom ∧ u.pending = s.pending ∧
      u.canLoad = s.canLoad ∧ (Memory.wf s.glyphRom s.mem → Memory.wf s.glyphRom u.mem)) ∨
    (∃ addr, i = .call addr ∧ s.sp = s.stackCapacity ∧ exec i s = .next (s.raise .stackOverflow)) ∨
    (i = .ret ∧ s.sp = 0 ∧ exec i s = .next (s.raise .stackUnderflow)) ∨
    (s.stackCapacity < s.sp ∧ exec i s = .fault .stackPointerOutOfRange) := by
  cases i with
  | call addr =>
    rcases execCall_cases addr s with ⟨h, he⟩ | ⟨h, he⟩ | ⟨h, he⟩
    · refine .inl ⟨_, _, he, rfl, rfl, by simp [State.stackCapacity], .inl ?_, rfl, rfl, rfl, id⟩
      simpa [State.stackCapacity] using h
    · exact .inr (.inl ⟨addr, rfl, h, he⟩)
    · exact .inr (.inr (.inr ⟨h, he⟩))
  | ret =>
    rcases execRet_cases s with ⟨h, he⟩ | ⟨h, h', a, ha, he⟩ | ⟨h, he⟩
    · exact .inr (.inr (.inl ⟨rfl, h, he⟩))
    · refine .inl ⟨_, _, he, rfl, rfl, rfl, .inl ?_, rfl, rfl, rfl, id⟩
      exact (Nat.sub_le ..).trans h'
    · exact .inr (.inr (.inr ⟨h, he⟩))
  | ldBcd x => exact .inl ⟨_, _, rfl, rfl, rfl, rfl, .inr rfl, rfl, rfl, rfl, State.storeDigits_wf_mem _⟩
  | storeRegs x =>
    refine .inl ⟨_, _, rfl, ?_, ?_, ?_, .inr ?_, ?_, ?_, ?_, State.storeBlock_wf_mem _⟩ <;>
      (rw [State.storeBlock_eq]; try rfl)
  | loadRegs x =>
    refine .inl ⟨_, _, rfl, ?_, ?_, ?_, .inr ?_, ?_, ?_, ?_, fun h => ?_⟩ <;> rw [State.loadBlock_eq]
    · rfl
    · exact h
  | _ => exact .inl ⟨_, _, rfl, rfl, rfl, rfl, .inr rfl, rfl, rfl, rfl, id⟩

end Sys2Proof.Machine
end

