-- ==== Sys2Proof/Laws/PerInstr.lean ====
section
/-! SUPPORT. A family of lemmas, one per instruction: the encoded word is selected by a row of the opcode map, and that row carries
the instruction's mnemonic (spec 30_encoding.md R80). -/

namespace Sys2Proof

/-- A mask that looks at the leading nibble only selects by that nibble. -/
theorem and_opMask (w : Word) : w &&& 0xF000#16 = fieldOp w ++ 0#12 := by
  apply BitVec.eq_of_getLsbD_eq
  intro i hi
  simp only [fieldOp, BitVec.getLsbD_and, BitVec.getLsbD_append, BitVec.getLsbD_extractLsb']
  interval_cases i <;> simp

/-- A mask that looks at the leading nibble and the low byte. -/
theorem and_opLowMask (w : Word) : w &&& 0xF0FF#16 = fieldOp w ++ (0#4 ++ fieldKk w) := by
  apply BitVec.eq_of_getLsbD_eq
  intro i hi
  simp only [fieldOp, fieldKk, BitVec.getLsbD_and, BitVec.getLsbD_append, BitVec.getLsbD_extractLsb']
  interval_cases i <;> simp

/-- A mask that looks at the leading and the 4th nibble. -/
theorem and_opVariantMask (w : Word) : w &&& 0xF00F#16 = fieldOp w ++ (0#8 ++ fieldN w) := by
  apply BitVec.eq_of_getLsbD_eq
  intro i hi
  simp only [fieldOp, fieldN, BitVec.getLsbD_and, BitVec.getLsbD_append, BitVec.getLsbD_extractLsb']
  interval_cases i <;> simp

namespace Laws.EncodeRow

/-- Some row of the opcode map has the instruction's mnemonic and selects its word. -/
def Statement (i : Instr) : Prop := ∃ r ∈ opcodeTable, r.mnemonic = i.mnemonic ∧ r.selects (encode i) = true

theorem cls : Statement .cls := ⟨⟨"CLS", 0xF0FF, 0x00E0⟩, by decide, rfl, by decide⟩
theorem ret : Statement .ret := ⟨⟨"RET", 0xF0FF, 0x00EE⟩, by decide, rfl, by decide⟩
theorem jp (addr : Addr) : Statement (.jp addr) :=
  ⟨⟨"JP addr", 0xF000, 0x1000⟩, by decide, rfl, by simp [OpcodeRow.selects, encode, and_opMask]⟩
theorem call (addr : Addr) : Statement (.call addr) :=
  ⟨⟨"CALL addr", 0xF000, 0x2000⟩, by decide, rfl, by simp [OpcodeRow.selects, encode, and_opMask]⟩
theorem seImm (x : Reg) (kk : Byte) : Statement (.seImm x kk) :=
  ⟨⟨"SE Vx,kk", 0xF000, 0x3000⟩, by decide, rfl, by simp [OpcodeRow.selects, encode, and_opMask]⟩
theorem sneImm (x : Reg) (kk : Byte) : Statement (.sneImm x kk) :=
  ⟨⟨"SNE Vx,kk", 0xF000, 0x4000⟩, by decide, rfl, by simp [OpcodeRow.selects, encode, and_opMask]⟩
theorem seReg (x : Reg) (y : Reg) : Statement (.seReg x y) :=
  ⟨⟨"SE Vx,Vy", 0xF00F, 0x5000⟩, by decide, rfl, by simp [OpcodeRow.selects, encode, and_opVariantMask]⟩
theorem ldImm (x : Reg) (kk : Byte) : Statement (.ldImm x kk) :=
  ⟨⟨"LD Vx,kk", 0xF000, 0x6000⟩, by decide, rfl, by simp [OpcodeRow.selects, encode, and_opMask]⟩
theorem addImm (x : Reg) (kk : Byte) : Statement (.addImm x kk) :=
  ⟨⟨"ADD Vx,kk", 0xF000, 0x7000⟩, by decide, rfl, by simp [OpcodeRow.selects, encode, and_opMask]⟩
theorem ldReg (x : Reg) (y : Reg) : Statement (.ldReg x y) :=
  ⟨⟨"LD Vx,Vy", 0xF00F, 0x8000⟩, by decide, rfl, by simp [OpcodeRow.selects, encode, and_opVariantMask]⟩
theorem orReg (x : Reg) (y : Reg) : Statement (.orReg x y) :=
  ⟨⟨"OR Vx,Vy", 0xF00F, 0x8001⟩, by decide, rfl, by simp [OpcodeRow.selects, encode, and_opVariantMask]⟩
theorem andReg (x : Reg) (y : Reg) : Statement (.andReg x y) :=
  ⟨⟨"AND Vx,Vy", 0xF00F, 0x8002⟩, by decide, rfl, by simp [OpcodeRow.selects, encode, and_opVariantMask]⟩
theorem xorReg (x : Reg) (y : Reg) : Statement (.xorReg x y) :=
  ⟨⟨"XOR Vx,Vy", 0xF00F, 0x8003⟩, by decide, rfl, by simp [OpcodeRow.selects, encode, and_opVariantMask]⟩
theorem addReg (x : Reg) (y : Reg) : Statement (.addReg x y) :=
  ⟨⟨"ADD Vx,Vy", 0xF00F, 0x8004⟩, by decide, rfl, by simp [OpcodeRow.selects, encode, and_opVariantMask]⟩
theorem subReg (x : Reg) (y : Reg) : Statement (.subReg x y) :=
  ⟨⟨"SUB Vx,Vy", 0xF00F, 0x8005⟩, by decide, rfl, by simp [OpcodeRow.selects, encode, and_opVariantMask]⟩
theorem shr (x : Reg) : Statement (.shr x) :=
  ⟨⟨"SHR Vx", 0xF00F, 0x8006⟩, by decide, rfl, by simp [OpcodeRow.selects, encode, and_opVariantMask]⟩
theorem subnReg (x : Reg) (y : Reg) : Statement (.subnReg x y) :=
  ⟨⟨"SUBN Vx,Vy", 0xF00F, 0x8007⟩, by decide, rfl, by simp [OpcodeRow.selects, encode, and_opVariantMask]⟩
theorem shl (x : Reg) : Statement (.shl x) :=
  ⟨⟨"SHL Vx", 0xF00F, 0x800E⟩, by decide, rfl, by simp [OpcodeRow.selects, encode, and_opVariantMask]⟩
theorem sneReg (x : Reg) (y : Reg) : Statement (.sneReg x y) :=
  ⟨⟨"SNE Vx,Vy", 0xF00F, 0x9000⟩, by decide, rfl, by simp [OpcodeRow.selects, encode, and_opVariantMask]⟩
theorem ldI (addr : Addr) : Statement (.ldI addr) :=
  ⟨⟨"LD I,addr", 0xF000, 0xA000⟩, by decide, rfl, by simp [OpcodeRow.selects, encode, and_opMask]⟩
theorem jpV0 (addr : Addr) : Statement (.jpV0 addr) :=
  ⟨⟨"JP V0,addr", 0xF000, 0xB000⟩, by decide, rfl, by simp [OpcodeRow.selects, encode, and_opMask]⟩
theorem rnd (x : Reg) (kk : Byte) : Statement (.rnd x kk) :=
  ⟨⟨"RND Vx,kk", 0xF000, 0xC000⟩, by decide, rfl, by simp [OpcodeRow.selects, encode, and_opMask]⟩
theorem drw (x : Reg) (y : Reg) (n : Nat) : Statement (.drw x y n) :=
  ⟨⟨"DRW Vx,Vy,n", 0xF000, 0xD000⟩, by decide, rfl, by simp [OpcodeRow.selects, encode, and_opMask]⟩
theorem skp (x : Reg) : Statement (.skp x) :=
  ⟨⟨"SKP Vx", 0xF0FF, 0xE09E⟩, by decide, rfl, by simp [OpcodeRow.selects, encode, and_opLowMask]⟩
theorem sknp (x : Reg) : Statement (.sknp x) :=
  ⟨⟨"SKNP Vx", 0xF0FF, 0xE0A1⟩, by decide, rfl, by simp [OpcodeRow.selects, encode, and_opLowMask]⟩
theorem ldFromDt (x : Reg) : Statement (.ldFromDt x) :=
  ⟨⟨"LD Vx,DT", 0xF0FF, 0xF007⟩, by decide, rfl, by simp [OpcodeRow.selects, encode, and_opLowMask]⟩
theorem ldKey (x : Reg) : Statement (.ldKey x) :=
  ⟨⟨"LD Vx,K", 0xF0FF, 0xF00A⟩, by decide, rfl, by simp [OpcodeRow.selects, encode, and_opLowMask]⟩
theorem ldToDt (x : Reg) : Statement (.ldToDt x) :=
  ⟨⟨"LD DT,Vx", 0xF0FF, 0xF015⟩, by decide, rfl, by simp [OpcodeRow.selects, encode, and_opLowMask]⟩
theorem ldToSt (x : Reg) : Statement (.ldToSt x) :=
  ⟨⟨"LD ST,Vx", 0xF0FF, 0xF018⟩, by decide, rfl, by simp [OpcodeRow.selects, encode, and_opLowMask]⟩
theorem addI (x : Reg) : Statement (.addI x) :=
  ⟨⟨"ADD I,Vx", 0xF0FF, 0xF01E⟩, by decide, rfl, by simp [OpcodeRow.selects, encode, and_opLowMask]⟩
theorem ldGlyph (x : Reg) : Statement (.ldGlyph x) :=
  ⟨⟨"LD F,Vx", 0xF0FF, 0xF029⟩, by decide, rfl, by simp [OpcodeRow.selects, encode, and_opLowMask]⟩
theorem ldBcd (x : Reg) : Statement (.ldBcd x) :=
  ⟨⟨"LD B,Vx", 0xF0FF, 0xF033⟩, by decide, rfl, by simp [OpcodeRow.selects, encode, and_opLowMask]⟩
theorem storeRegs (x : Reg) : Statement (.storeRegs x) :=
  ⟨⟨"LD [I],Vx", 0xF0FF, 0xF055⟩, by decide, rfl, by simp [OpcodeRow.selects, encode, and_opLowMask]⟩
theorem loadRegs (x : Reg) : Statement (.loadRegs x) :=
  ⟨⟨"LD Vx,[I]", 0xF0FF, 0xF065⟩, by decide, rfl, by simp [OpcodeRow.selects, encode, and_opLowMask]⟩

end Laws.EncodeRow

end Sys2Proof
end

