-- ==== Sys2Proof/Laws/Step.lean ====
section
/-! SUPPORT. Everything a step can do, said once (spec 10_state.md R40 to R43): every claim about `step` starts from these. -/

namespace Sys2Proof.Machine

/-- Everything a step can do once its inputs are supplied (R42). -/
theorem State.runStep_cases (s : State) :
    (s.fault ≠ .none ∧ s.runStep = .next s) ∨
    (s.fault = .none ∧ ∃ t, s.wait = .awaitingKey t ∧ s.runStep = .next (s.awaitKey t)) ∨
    (s.fault = .none ∧ s.wait = .running ∧ ∃ i, decodeWord s.fetch = .ok i ∧ s.runStep = exec i s) ∨
    (s.fault = .none ∧ s.wait = .running ∧ (∃ e, decodeWord s.fetch = .error e) ∧
      s.runStep = .next (s.raise (.unknownInstruction s.pc s.fetch))) := by
  unfold State.runStep State.takeFault
  cases hf : s.fault with
  | none =>
    cases hw : s.wait with
    | awaitingKey t => exact .inr (.inl ⟨rfl, t, rfl, rfl⟩)
    | running =>
      cases hd : decodeWord s.fetch with
      | ok i => exact .inr (.inr (.inl ⟨rfl, rfl, i, rfl, rfl⟩))
      | error e => exact .inr (.inr (.inr ⟨rfl, rfl, ⟨e, rfl⟩, rfl⟩))
  | unknownInstruction pc w => exact .inl ⟨by simp, rfl⟩
  | stackOverflow => exact .inl ⟨by simp, rfl⟩
  | stackUnderflow => exact .inl ⟨by simp, rfl⟩

/-- Everything one event can be (R40). -/
theorem step_cases (s : State) :
    (s.pending = [] ∧ step s = s.supplyFree.runStep) ∨
    (∃ rest, s.pending = .reset :: rest ∧ step s = .next (s.consume rest).resetEvent) ∨
    (∃ bytes rest, s.pending = .load bytes :: rest ∧ s.canLoad = true ∧
      step s = .next ((s.consume rest).loadEvent bytes)) ∨
    (∃ bytes rest, s.pending = .load bytes :: rest ∧ s.canLoad = false ∧ step s = .refused .loadNotAllowed) ∨
    (∃ key rnd rest, s.pending = .step key rnd :: rest ∧
      step s = ((s.consume rest).supply key rnd).runStep) ∨
    (∃ rest, s.pending = .tick :: rest ∧ step s = .next (s.consume rest).tick) := by
  unfold step State.transition State.tryLoad
  cases hp : s.pending with
  | nil => exact .inl ⟨rfl, rfl⟩
  | cons e rest =>
    refine .inr ?_
    cases e with
    | reset => exact .inl ⟨rest, rfl, rfl⟩
    | load bytes =>
      refine .inr ?_
      cases hc : s.canLoad with
      | true => exact .inl ⟨bytes, rest, rfl, rfl, by simp [State.consume, hc]⟩
      | false => exact .inr (.inl ⟨bytes, rest, rfl, rfl, by simp [State.consume, hc]⟩)
    | step key rnd => exact .inr (.inr (.inr (.inl ⟨key, rnd, rest, rfl, rfl⟩)))
    | tick => exact .inr (.inr (.inr (.inr ⟨rest, rfl, rfl⟩)))

/-- A placed instruction is the next one fetched. -/
theorem State.fetch_placeInstr (s : State) (w : Word) : (s.placeInstr w).fetch = w := by
  have hne : portAddr s.pc ≠ portAddr (s.pc + 1) := by
    have := s.pc.isLt
    simp only [portAddr, BitVec.toNat_add, Config.memSize, show (1 : Word).toNat = 1 from rfl]
    omega
  have h : (s.placeInstr w).fetch =
      ((s.writeByte s.pc (highByte w)).writeByte (s.pc + 1) (lowByte w)).fetchAt s.pc := rfl
  rw [h, State.fetchAt, State.readByte_writeByte, State.readByte_writeByte, State.readByte_writeByte, if_neg hne,
    if_pos rfl, if_pos rfl, wordOfBytes_high_low]

end Sys2Proof.Machine
end

