-- ==== Sys2Proof/Tests/Slice0.lean ====
section
/-! SUPPORT. Tests: words written out from the spec's encodings, one step on small states with results from the spec's vectors
(spec 95_test_vectors.md, whose labels the names bear), and for each obligation with hypotheses a state that meets them. -/

namespace Sys2Proof.Tests

open Sys2Proof.Machine

/-! ### Building small states -/

/-- Set some registers. -/
def regs (s : State) : List (Reg × Byte) → State
  | [] => s
  | (r, b) :: l => regs (s.setV r b) l

/-- Store bytes from an address on. -/
def bytes (s : State) (a : Word) : List Byte → State
  | [] => s
  | b :: l => bytes (s.writeByte a b) (a + 1) l

/-- Set some pixels, given as (column, row). -/
def pixels (s : State) : List (Nat × Nat) → State
  | [] => s
  | (px, py) :: l => pixels (s.setFb (s.fb.toggle px py)) l

/-- The pixels that are set, given as (column, row), row by row. -/
def lit (s : State) : List (Nat × Nat) :=
  s.fb.toList.zipIdx.flatMap fun r => (r.1.toList.zipIdx.filter fun p => p.1).map fun p => (p.2, r.2)

/-- A word placed at `PC`, and one step with the inputs given. -/
def ready (s : State) (w : Word) (key : Option Nibble := none) (rnd : Byte := 0) : State :=
  { s.placeInstr w with pending := [.step key rnd] }

/-- The state after one event, if there is one. -/
def after (s : State) : Option State :=
  match step s with
  | .next t => some t
  | .fault _ => none
  | .refused _ => none

/-- Why one event is refused, if it is. -/
def refusal (s : State) : Option Refusal :=
  match step s with
  | .next _ => none
  | .fault _ => none
  | .refused r => some r

/-- What `f` says of the state after one step of the word `w` at `PC`. -/
def run {α : Type} (s : State) (w : Word) (f : State → α) (key : Option Nibble := none) (rnd : Byte := 0) : Option α :=
  (after (ready s w key rnd)).map f

/-- The machine after reset. -/
abbrev s0 : State := State.reset

/-- A refused word. -/
def unknown (w : Word) : Bool := decide (decodeWord w = .error (.unknownInstruction w))

/-! ### Decoding: words written out from the patterns of R80 (vectors E1 to E32) -/

theorem test_decode_display :
    decodeWord 0x00E0 = .ok .cls ∧ decodeWord 0x0AE0 = .ok .cls ∧ decodeWord 0xD01F = .ok (.drw 0 1 15) ∧
      decodeWord 0xD010 = .ok (.drw 0 1 0) := by decide

theorem test_decode_control :
    decodeWord 0x00EE = .ok .ret ∧ decodeWord 0x0FEE = .ok .ret ∧ decodeWord 0x1234 = .ok (.jp 0x234) ∧
      decodeWord 0x2FFF = .ok (.call 0xFFF) ∧ decodeWord 0x3A7F = .ok (.seImm 0xA 0x7F) ∧
      decodeWord 0x4B00 = .ok (.sneImm 0xB 0x00) ∧ decodeWord 0x5120 = .ok (.seReg 1 2) ∧
      decodeWord 0x9AB0 = .ok (.sneReg 0xA 0xB) ∧ decodeWord 0xB123 = .ok (.jpV0 0x123) := by decide

theorem test_decode_alu :
    decodeWord 0x6A0F = .ok (.ldImm 0xA 0x0F) ∧ decodeWord 0x7C01 = .ok (.addImm 0xC 0x01) ∧
      decodeWord 0x8AB0 = .ok (.ldReg 0xA 0xB) ∧ decodeWord 0x8121 = .ok (.orReg 1 2) ∧
      decodeWord 0x8122 = .ok (.andReg 1 2) ∧ decodeWord 0x8123 = .ok (.xorReg 1 2) ∧
      decodeWord 0x8124 = .ok (.addReg 1 2) ∧ decodeWord 0x8125 = .ok (.subReg 1 2) ∧
      decodeWord 0x8AB6 = .ok (.shr 0xA) ∧ decodeWord 0x8127 = .ok (.subnReg 1 2) ∧
      decodeWord 0x8ABE = .ok (.shl 0xA) := by decide

theorem test_decode_index_memory :
    decodeWord 0xA123 = .ok (.ldI 0x123) ∧ decodeWord 0xF11E = .ok (.addI 1) ∧ decodeWord 0xF129 = .ok (.ldGlyph 1) ∧
      decodeWord 0xF133 = .ok (.ldBcd 1) ∧ decodeWord 0xF155 = .ok (.storeRegs 1) ∧
      decodeWord 0xF165 = .ok (.loadRegs 1) := by decide

theorem test_decode_devices :
    decodeWord 0xC1FF = .ok (.rnd 1 0xFF) ∧ decodeWord 0xE19E = .ok (.skp 1) ∧ decodeWord 0xE1A1 = .ok (.sknp 1) ∧
      decodeWord 0xF107 = .ok (.ldFromDt 1) ∧ decodeWord 0xF10A = .ok (.ldKey 1) ∧ decodeWord 0xF115 = .ok (.ldToDt 1) ∧
      decodeWord 0xF118 = .ok (.ldToSt 1) := by decide

theorem test_decode_unknown :
    ([0x0000, 0x00E1, 0x0123, 0x5121, 0x8AB8, 0x8AB9, 0x8ABA, 0x8ABB, 0x8ABC, 0x8ABD, 0x8ABF, 0x9AB1, 0xE19F, 0xE100,
      0xE1A0, 0xF100, 0xF175, 0xF185, 0xF130, 0xF1FF, 0xFFFF] : List Word).all unknown = true := by decide

/-- Two bytes of each word: the first is the high one, and the bytes after it are left (R70). -/
theorem test_decode_bytes :
    decodeBytes [0x6A, 0x0F, 0x12] = .ok (.ldImm 0xA 0x0F, [0x12]) ∧ decodeBytes [0x6A] = .error .tooShort := by decide

theorem test_decode_table_word :
    decodeTableWord 16 0x8127 = some (.subnReg 1 2) ∧ decodeTableWord 16 0x8128 = none := by decide

/-- R71's fields of 0xD12F: 1st nibble D, 2nd 1, 3rd 2, 4th F. -/
theorem test_fields_of_D12F :
    fieldOp 0xD12F = 0xD ∧ fieldX 0xD12F = 1 ∧ fieldY 0xD12F = 2 ∧ fieldN 0xD12F = 0xF ∧ fieldKk 0xD12F = 0x2F ∧
      fieldAddr 0xD12F = 0x12F := by decide

/-- Words an assembler writes: 0 in the ignored bits (R82, R86). -/
theorem test_encode_ignored_bits :
    encode .cls = 0x00E0 ∧ encode .ret = 0x00EE ∧ encode (.shr 0xA) = 0x8A06 ∧ encode (.shl 0xA) = 0x8A0E := by decide

theorem test_opcode_table_has_34_rows : opcodeTable.length = 34 := by decide

/-! ### Well-formedness: the one check, with a term it refuses -/

theorem test_wellFormed_refuses_16_rows : (Instr.drw 0 0 16).wellFormed = false := by decide

theorem test_wellFormed_admits_15_rows : (Instr.drw 15 15 15).wellFormed = true ∧ (Instr.drw 0 0 0).wellFormed = true := by
  decide

/-! ### Fetch -/

theorem test_E35_odd_pc :
    run (({ s0 with pc := 0x201 } : State)) 0x6007 (fun t => (t.getV 0, t.pc)) = some (7, 0x203) := by decide

theorem test_E36_fetch_wraps :
    (bytes (bytes { s0 with pc := 0xFFF } 0xFFF [0x12]) 0x000 [0x34]).fetch = 0x1234 := by decide

theorem test_E37_pc_above_memory :
    (after { bytes { s0 with pc := 0x1200 } 0x200 [0x60, 0x01] with pending := [.step none 0] }).map
      (fun t => (t.getV 0, t.pc)) = some (1, 0x1202) := by decide

/-! ### Display -/

theorem test_G1_cls :
    run (regs (pixels s0 [(0, 0), (63, 31)]) [(15, 1)]) 0x00E0 (fun t => (lit t, t.getV 15, t.pc)) =
      some ([], 1, 0x202) := by decide

/-- G4, partial overlap: one pixel set, one erased. -/
theorem test_G4_drw_collides :
    run (bytes { pixels s0 [(1, 0)] with i := 0x300 } 0x300 [0xC0]) 0xD121 (fun t => (lit t, t.getV 15)) =
      some ([(0, 0)], 1) := by decide

/-- P3's first draw: wraps in both directions; `VF` was 1 before. -/
theorem test_P3_drw_wraps :
    run (regs (bytes { s0 with i := 0x20E } 0x20E [0xC3, 0x81]) [(0, 0x3E), (1, 0x1F), (15, 1)]) 0xD012
      (fun t => (lit t, t.getV 15, t.i)) =
      some ([(5, 0), (62, 0), (4, 31), (5, 31), (62, 31), (63, 31)], 0, 0x20E) := by decide

/-! ### Control transfer -/

theorem test_C1_jp : run s0 0x1ABC (fun t => (t.pc, t.sp)) = some (0xABC, 0) := by decide

theorem test_C4_jpV0 : run (regs s0 [(0, 0xFF)]) 0xBFFF (fun t => t.pc) = some 0x10FE := by decide

theorem test_C5_C6_seImm :
    run (regs s0 [(3, 0x2A)]) 0x332A (fun t => t.pc) = some 0x204 ∧
      run (regs s0 [(3, 0x2A)]) 0x332B (fun t => t.pc) = some 0x202 := by decide

theorem test_C7_C8_sneImm :
    run (regs s0 [(3, 0x2A)]) 0x432A (fun t => t.pc) = some 0x202 ∧
      run (regs s0 [(3, 0x2A)]) 0x432B (fun t => t.pc) = some 0x204 := by decide

theorem test_C9_C10_seReg :
    run (regs s0 [(1, 7), (2, 7)]) 0x5120 (fun t => t.pc) = some 0x204 ∧
      run (regs s0 [(1, 7), (2, 8)]) 0x5120 (fun t => t.pc) = some 0x202 := by decide

theorem test_C11_C12_sneReg :
    run (regs s0 [(1, 7), (2, 8)]) 0x9120 (fun t => t.pc) = some 0x204 ∧
      run (regs s0 [(1, 7), (2, 7)]) 0x9120 (fun t => t.pc) = some 0x202 := by decide

theorem test_C15_call_last_slot :
    run { s0 with sp := 15 } 0x2300 (fun t => (t.stack[15]?, t.sp, t.pc)) = some (some 0x202, 16, 0x300) := by decide

theorem test_C16_call_full_stack :
    run { s0 with sp := 16 } 0x2300 (fun t => (t.fault, t.sp, t.pc)) = some (.stackOverflow, 16, 0x200) := by decide

theorem test_C18_ret :
    run { s0 with pc := 0x300, sp := 2, stack := s0.stack.set 1 0xABD } 0x00EE
      (fun t => (t.sp, t.pc, t.stack[1]?)) = some (1, 0xABD, some 0xABD) := by decide

theorem test_C17_ret_empty_stack :
    run s0 0x00EE (fun t => (t.fault, t.sp, t.pc)) = some (.stackUnderflow, 0, 0x200) := by decide

/-- C19: `PC` wraps modulo 65536. -/
theorem test_C19_pc_wraps :
    run { s0 with pc := 0xFFFE } 0x6001 (fun t => (t.getV 0, t.pc)) = some (1, 0) := by decide

/-! ### Register loads and the ALU -/

theorem test_A2_ldImm_vf : run s0 0x6FAB (fun t => t.getV 15) = some 0xAB := by decide

theorem test_A3_addImm : run (regs s0 [(0, 0xFF)]) 0x7002 (fun t => (t.getV 0, t.getV 15)) = some (1, 0) := by decide

theorem test_A6_ldReg : run (regs s0 [(2, 0x5A)]) 0x8120 (fun t => (t.getV 1, t.getV 2)) = some (0x5A, 0x5A) := by decide

theorem test_A7_orReg :
    run (regs s0 [(1, 0xF0), (2, 0x0F), (15, 0x55)]) 0x8121 (fun t => (t.getV 1, t.getV 15)) = some (0xFF, 0x55) := by
  decide

theorem test_A8_andReg :
    run (regs s0 [(1, 0xF3), (2, 0x3F), (15, 0x55)]) 0x8122 (fun t => (t.getV 1, t.getV 15)) = some (0x33, 0x55) := by
  decide

theorem test_A9_xorReg :
    run (regs s0 [(1, 0xFF), (2, 0x0F), (15, 0x55)]) 0x8123 (fun t => (t.getV 1, t.getV 15)) = some (0xF0, 0x55) := by
  decide

theorem test_A12_A13_addReg :
    run (regs s0 [(1, 0x80), (2, 0x80)]) 0x8124 (fun t => (t.getV 1, t.getV 15)) = some (0, 1) ∧
      run (regs s0 [(1, 0x7F), (2, 0x80), (15, 1)]) 0x8124 (fun t => (t.getV 1, t.getV 15)) = some (0xFF, 0) := by decide

/-- A16: the flag survives in `VF`; A18: `VF` as operand is its old value. -/
theorem test_A16_A18_addReg_vf :
    run (regs s0 [(15, 0xFF), (1, 1)]) 0x8F14 (fun t => t.getV 15) = some 1 ∧
      run (regs s0 [(1, 0xFF), (15, 1)]) 0x81F4 (fun t => (t.getV 1, t.getV 15)) = some (0, 1) := by decide

theorem test_A19_A20_subReg :
    run (regs s0 [(1, 1), (2, 2), (15, 1)]) 0x8125 (fun t => (t.getV 1, t.getV 15)) = some (0xFF, 0) ∧
      run (regs s0 [(1, 5), (2, 5)]) 0x8125 (fun t => (t.getV 1, t.getV 15)) = some (0, 1) := by decide

theorem test_A24_subReg_vf : run (regs s0 [(15, 5), (1, 3)]) 0x8F15 (fun t => t.getV 15) = some 1 := by decide

theorem test_A25_A26_subnReg :
    run (regs s0 [(1, 2), (2, 1)]) 0x8127 (fun t => (t.getV 1, t.getV 2, t.getV 15)) = some (0xFF, 1, 0) ∧
      run (regs s0 [(1, 1), (2, 3)]) 0x8127 (fun t => (t.getV 1, t.getV 15)) = some (2, 1) := by decide

theorem test_A33_A34_shr :
    run (regs s0 [(1, 0x80)]) 0x8106 (fun t => (t.getV 1, t.getV 15)) = some (0x40, 0) ∧
      run (regs s0 [(1, 3), (2, 0xF0)]) 0x8126 (fun t => (t.getV 1, t.getV 2, t.getV 15)) = some (1, 0xF0, 1) := by decide

theorem test_A35_shr_vf : run (regs s0 [(15, 3)]) 0x8F06 (fun t => t.getV 15) = some 1 := by decide

theorem test_A37_A38_shl :
    run (regs s0 [(1, 0x81)]) 0x810E (fun t => (t.getV 1, t.getV 15)) = some (2, 1) ∧
      run (regs s0 [(1, 0x40), (15, 1)]) 0x810E (fun t => (t.getV 1, t.getV 15)) = some (0x80, 0) := by decide

theorem test_A42_shl_vf : run (regs s0 [(15, 0x7F)]) 0x8F0E (fun t => t.getV 15) = some 0 := by decide

/-! ### Index register and memory -/

theorem test_M1_ldI : run s0 0xA2F0 (fun t => t.i) = some 0x2F0 := by decide

theorem test_M2_M3_addI :
    run (regs { s0 with i := 0xFFF } [(2, 2)]) 0xF21E (fun t => (t.i, t.getV 15)) = some (0x1001, 0) ∧
      run (regs { s0 with i := 0xFFFF } [(2, 1)]) 0xF21E (fun t => t.i) = some 0 := by decide

theorem test_M4_M7_ldGlyph :
    run (regs s0 [(3, 0x0A)]) 0xF329 (fun t => t.i) = some 0x32 ∧
      run (regs s0 [(3, 0xFF)]) 0xF329 (fun t => t.i) = some 0x4FB := by decide

theorem test_M8_ldBcd :
    run (regs { s0 with i := 0x300 } [(4, 0x9C)]) 0xF433
      (fun t => (t.readByte 0x300, t.readByte 0x301, t.readByte 0x302, t.readByte 0x303, t.i)) =
      some (1, 5, 6, 0, 0x300) := by decide

theorem test_M13_ldBcd_wraps :
    run (regs { s0 with i := 0xFFE } [(4, 0x7B)]) 0xF433
      (fun t => (t.readByte 0xFFE, t.readByte 0xFFF, t.readByte 0x000)) = some (1, 2, 3) := by decide

theorem test_M14_storeRegs :
    run (regs { s0 with i := 0x400 } [(0, 0x11), (1, 0x22), (2, 0x33), (3, 0x44)]) 0xF255
      (fun t => (t.readByte 0x400, t.readByte 0x401, t.readByte 0x402, t.readByte 0x403, t.i)) =
      some (0x11, 0x22, 0x33, 0, 0x400) := by decide

theorem test_M17_loadRegs :
    run (regs (bytes { s0 with i := 0x400 } 0x400 [0x11, 0x22, 0x33, 0x44]) [(3, 0x99)]) 0xF265
      (fun t => (t.getV 0, t.getV 1, t.getV 2, t.getV 3, t.i)) = some (0x11, 0x22, 0x33, 0x99, 0x400) := by decide

/-- M18: the sixteen registers from the glyphs; `VF` is loaded like any other. -/
theorem test_M18_loadRegs_vf :
    run s0 0xFF65 (fun t => (t.getV 0, t.getV 5, t.getV 14, t.getV 15)) = some (0xF0, 0x20, 0xF0, 0xF0) := by decide

/-- Storing a byte's reset content unlists it: the memory is again the one that lists nothing. -/
theorem test_write_keeps_one_form :
    ((s0.writeByte 0x400 5).writeByte 0x1400 0).mem = [] ∧ (s0.writeByte 0x000 0xF0).mem = [] := by decide

/-! ### Random number, keypad, timers -/

theorem test_K1_rnd : run s0 0xC30F (fun t => t.getV 3) (rnd := 0xA7) = some 7 := by decide

theorem test_K4_K7_skp :
    run (regs s0 [(5, 7)]) 0xE59E (fun t => t.pc) (key := some 7) = some 0x204 ∧
      run (regs s0 [(5, 0x17)]) 0xE59E (fun t => t.pc) (key := some 7) = some 0x202 := by decide

theorem test_K6_skp_no_key : run (regs s0 [(5, 7)]) 0xE59E (fun t => t.pc) = some 0x202 := by decide

theorem test_K8_K10_sknp :
    run (regs s0 [(5, 7)]) 0xE5A1 (fun t => t.pc) (key := some 7) = some 0x202 ∧
      run (regs s0 [(5, 7)]) 0xE5A1 (fun t => t.pc) = some 0x204 := by decide

theorem test_K12_ldKey :
    run s0 0xF30A (fun t => (t.wait, t.pc, t.getV 3)) (key := some 5) = some (.awaitingKey 3, 0x202, 0) := by decide

/-- K15: the key goes into the awaited register and nothing is executed. -/
theorem test_K15_key_arrives :
    (after { s0 with wait := .awaitingKey 15, pc := 0x202, pending := [.step (some 0xF) 0] }).map
      (fun t => (t.getV 15, t.wait, t.pc, t.fault)) = some (0x0F, .running, 0x202, .none) := by decide

theorem test_K16_ldFromDt : run { s0 with dt := 0x2C } 0xF407 (fun t => (t.getV 4, t.dt)) = some (0x2C, 0x2C) := by decide

theorem test_K17_ldToDt : run (regs s0 [(4, 0x3C)]) 0xF415 (fun t => (t.dt, t.st)) = some (0x3C, 0) := by decide

theorem test_K18_ldToSt :
    run (regs s0 [(4, 2)]) 0xF418 (fun t => (t.st, t.dt, t.buzzer)) = some (2, 0, true) := by decide

/-- K20 and K22: a timer at 0 stays; a halted core's timers count. -/
theorem test_K20_K22_tick :
    (after { s0 with st := 0xFF, pending := [.tick] }).map (fun t => (t.dt, t.st)) = some (0, 0xFE) ∧
      (after { s0 with fault := .stackOverflow, st := 2, pending := [.tick] }).map (fun t => (t.st, t.fault)) =
        some (1, .stackOverflow) := by decide

/-! ### Faults, reset, load -/

theorem test_X1_empty_machine :
    (after { s0 with pending := [.step none 0] }).map (fun t => (t.fault, t.fault.code, t.pc)) =
      some (.unknownInstruction 0x200 0, 1, 0x200) := by decide

theorem test_X2_unknown_variant :
    run s0 0x80F8 (fun t => (t.fault, t.pc, t.halted)) = some (.unknownInstruction 0x200 0x80F8, 0x200, true) := by decide

/-- X4: reset clears the latch, the registers and memory. -/
theorem test_X4_reset :
    (after { regs (bytes s0 0x300 [1]) [(3, 3)] with fault := .stackOverflow, pending := [.reset] }).map
      (fun t => (t.fault, t.getV 3, t.mem)) = some (.none, 0, []) := by decide

/-- T8: a load; then one that is refused. -/
theorem test_T8_load :
    (after { s0 with pending := [.load [0xAA, 0xBB]] }).map
        (fun t => (t.readByte 0x200, t.readByte 0x201, t.readByte 0x202)) = some (0xAA, 0xBB, 0) ∧
      refusal { s0 with canLoad := false, pending := [.load [0xAA]] } = some .loadNotAllowed := by decide

theorem test_X7_reset_glyphs :
    s0.readByte 0x000 = 0xF0 ∧ s0.readByte 0x001 = 0x90 ∧ s0.readByte 0x04B = 0xF0 ∧ s0.readByte 0x04F = 0x80 ∧
      s0.readByte 0x050 = 0 ∧ s0.readByte 0xFFF = 0 := by decide

/-! ### Witnesses: for each obligation with hypotheses, what meets them, each clause at a boundary -/

theorem witness_DecodeOfEncode : (Instr.drw 15 15 15).wellFormed = true := by decide

theorem witness_OnlyIgnoredBitsAreLost :
    decodeWord 0x0FE0 = .ok .cls ∧ (0x00E0 : Word) &&& Instr.cls.usedBits = 0x0FE0 &&& Instr.cls.usedBits ∧
      decodeWord 0x8AB6 = .ok (.shr 0xA) ∧
      (0x8A06 : Word) &&& (Instr.shr 0xA).usedBits = 0x8AB6 &&& (Instr.shr 0xA).usedBits := by decide

/-- Words on both sides of each clause of the table of illegal words. -/
theorem witness_IllegalWords :
    ([0x00DF, 0x0FFF, 0x5001, 0x5FFF, 0x8008, 0x800D, 0x800F, 0x9001, 0xE09F, 0xE0A2, 0xF006, 0xF066] : List Word).all
        unknown = true ∧
      ([0x00E0, 0x0FEE, 0x5000, 0x8007, 0x800E, 0x9FF0, 0xE09E, 0xEFA1, 0xF007, 0xFF65] : List Word).all
        (fun w => !unknown w) = true := by decide

/-- A sprite of 15 rows with a set pixel under a 1 bit, and one of no rows. -/
theorem witness_DrwXorsTheSpriteMask :
    (pixels (bytes { s0 with i := 0x300 } 0x300 [0x80]) [(0, 0)]).fb.pixel 0 0 = true ∧
      (pixels (bytes { s0 with i := 0x300 } 0x300 [0x80]) [(0, 0)]).spriteCovers 1 2 15 0 0 = true ∧
      s0.spriteCovers 1 2 0 63 31 = false ∧ s0.fb.pixel 63 31 = false := by decide

theorem witness_DrawingTwice :
    ∃ t, exec (.drw 1 2 1) (bytes { s0 with i := 0x300 } 0x300 [0x80]) = .next t ∧ (1 : Reg) ≠ vf ∧ (2 : Reg) ≠ vf ∧
      (bytes { s0 with i := 0x300 } 0x300 [0x80]).fb.pixel 0 0 = false ∧
      (bytes { s0 with i := 0x300 } 0x300 [0x80]).spriteCovers 1 2 1 0 0 = true :=
  ⟨_, rfl, by decide, by decide, by decide, by decide⟩

theorem witness_RetPopsOrUnderflows :
    s0.sp = 0 ∧ (0 < ({ s0 with sp := 1 } : State).sp ∧ ({ s0 with sp := 1 } : State).sp ≤ s0.stackCapacity) ∧
      (0 < ({ s0 with sp := 16 } : State).sp ∧ ({ s0 with sp := 16 } : State).sp ≤ s0.stackCapacity) := by decide

theorem witness_CallPushesOrOverflows :
    ({ s0 with sp := 16 } : State).sp = ({ s0 with sp := 16 } : State).stackCapacity ∧
      ({ s0 with sp := 15 } : State).sp < ({ s0 with sp := 15 } : State).stackCapacity ∧ s0.sp < s0.stackCapacity := by
  decide

theorem witness_ReturnUndoesCall :
    ({ s0 with sp := 15 } : State).sp < s0.stackCapacity ∧ ∃ t, exec (.call 0x300) { s0 with sp := 15 } = .next t :=
  ⟨by decide, _, rfl⟩

theorem witness_ProgramCounterPolicy_raises :
    ∃ t, s0.fault = .none ∧ exec .ret s0 = .next t ∧ t.fault ≠ .none := ⟨_, by decide, rfl, by decide⟩

theorem witness_ProgramCounterPolicy_completes :
    ∃ t, s0.fault = .none ∧ exec (.jpV0 0xFFF) s0 = .next t ∧ t.fault = .none := ⟨_, by decide, rfl, by decide⟩

/-- Carries at the boundary, with `x` other than 15 and equal to it. -/
theorem witness_AddRegistersSetsCarry :
    ¬ 255 < ((regs s0 [(1, 0xFF)]).getV 1).toNat + ((regs s0 [(1, 0xFF)]).getV 2).toNat ∧
      255 < ((regs s0 [(1, 0xFF), (2, 1)]).getV 1).toNat + ((regs s0 [(1, 0xFF), (2, 1)]).getV 2).toNat ∧
      (1 : Reg) ≠ vf ∧ (15 : Reg) = vf := by decide

theorem witness_OnlyFlagProducersWriteVf :
    (∃ t, exec (.shl 1) s0 = .next t ∧ (Instr.shl 1).producesFlag = true) ∧
      (∃ t, exec (.loadRegs 14) s0 = .next t ∧ (Instr.loadRegs 14).producesFlag = false ∧
        (Instr.loadRegs 14).names vf = false) :=
  ⟨⟨_, rfl, by decide⟩, _, rfl, by decide, by decide⟩

/-- The bytes a store goes to and one it does not, at the end of memory. -/
theorem witness_stores_in_block :
    Part.inBlock { s0 with i := 0xFFF } 3 (.byte 0x001) ∧ ¬ Part.inBlock { s0 with i := 0xFFF } 3 (.byte 0x002) := by
  unfold Part.inBlock
  decide

theorem witness_FetchWraps : (0x1FFF : Word).toNat % 4096 = (0x0FFF : Word).toNat % 4096 := by decide

theorem witness_StoredInstruction :
    ∃ s t : State, s.fault = .none ∧ s.wait = .running ∧ s.i = s.pc + 2 ∧ s.pending = .step none 0 :: [] ∧
      decodeWord (wordOfBytes (s.getV 0) (s.getV 1)) = .ok (.jp 0x208) ∧ exec (.storeRegs 1) s = .next t :=
  ⟨{ regs { s0 with i := 0x202 } [(0, 0x12), (1, 0x08)] with pending := [.step none 0] }, _, by decide, by decide, by decide,
    by decide, by decide, rfl⟩

theorem witness_EqualReads :
    Memory.wf s0.glyphRom (s0.writeByte 0xFFF 1).mem ∧
      ∀ a < Config.memSize, Memory.read s0.glyphRom s0.mem a = Memory.read s0.glyphRom s0.mem a :=
  ⟨by decide, fun _ _ => rfl⟩

theorem witness_OnlyRndSeesTheRandomByte :
    ∃ t, exec (.skp 0) s0 = .next t ∧ ∀ x kk, Instr.skp 0 ≠ .rnd x kk := by
  refine ⟨_, rfl, fun _ _ => ?_⟩
  simp

theorem witness_OnlyKeySkipsSeeTheKey :
    ∃ t, exec (.ldKey 0) s0 = .next t ∧ ∀ x, Instr.ldKey 0 ≠ .skp x ∧ Instr.ldKey 0 ≠ .sknp x :=
  by
  refine ⟨_, rfl, fun _ => ⟨?_, ?_⟩⟩ <;> simp

theorem witness_KeySkips :
    State.keyNamedBy { regs s0 [(5, 0x0F)] with key := some 0xF } 5 ∧ ¬ State.keyNamedBy s0 5 :=
  ⟨⟨0xF, by decide, by decide⟩, fun ⟨_, h, _⟩ => by cases h⟩

theorem witness_WaitForKey :
    (∃ s : State, s.fault = .none ∧ s.wait = .awaitingKey 15 ∧ s.pending = .step none 0 :: []) ∧
      (∃ s : State, s.fault = .none ∧ s.wait = .awaitingKey 15 ∧ s.pending = .step (some 0xF) 0 :: []) :=
  ⟨⟨{ s0 with wait := .awaitingKey 15, pending := [.step none 0] }, by decide⟩,
    { s0 with wait := .awaitingKey 15, pending := [.step (some 0xF) 0] }, by decide⟩

theorem witness_Tick : ({ s0 with dt := 1, pending := [.tick] } : State).pending = .tick :: [] := by decide

theorem witness_TimersCount :
    (∃ t, exec (.ldToDt 1) (regs s0 [(1, 0xFF)]) = .next t) ∧ (∃ t, exec (.ldToSt 1) (regs s0 [(1, 1)]) = .next t) :=
  ⟨⟨_, rfl⟩, _, rfl⟩

theorem witness_StepRuns :
    ∃ s : State, s.fault = .none ∧ s.wait = .running ∧ s.pending = .step (some 3) 7 :: [] ∧
      decodeWord s.fetch = .ok (.rnd 1 0xFF) :=
  ⟨ready s0 0xC1FF (some 3) 7, by decide⟩

theorem witness_StepWithFreeInputs :
    ∃ s : State, s.fault = .none ∧ s.wait = .running ∧ s.pending = [] ∧ decodeWord s.fetch = .ok (.skp 1) :=
  ⟨s0.withFetchWord 16 0xE19E, by decide⟩

theorem witness_UnknownWord :
    ∃ s : State, s.fault = .none ∧ s.wait = .running ∧ s.pending = .step none 0 :: [] ∧
      decodeWord s.fetch = .error (.unknownInstruction s.fetch) :=
  ⟨ready s0 0xFFFF, by decide⟩

theorem witness_FatalErrors :
    (∃ t, s0.fault = .none ∧ exec .ret s0 = .next t ∧ t.fault ≠ .none) ∧
      (∃ t, s0.fault = .none ∧ exec (.call 0) { s0 with sp := 16 } = .next t ∧ t.fault ≠ .none) :=
  ⟨⟨_, by decide, rfl, by decide⟩, _, by decide, rfl, by decide⟩

/-- A halted core with each kind of event. -/
theorem witness_OnlyResetLeaves :
    ∀ e ∈ ([.reset, .tick, .step (some 3) 0x55] : List Event),
      ({ s0 with fault := .stackUnderflow } : State).fault ≠ .none ∧
        (after { s0 with fault := .stackUnderflow, pending := [e] }).isSome = true := by decide

theorem witness_ResetEvent : ({ s0 with fault := .stackOverflow, pending := [.reset] } : State).pending = .reset :: [] := by
  decide

/-- The last byte that fits, the last address below the program and the first after it, in both clauses of `load`. -/
theorem witness_LoadCopiesAndTruncates :
    (List.replicate 3585 (7 : Byte))[3583]? = some 7 ∧ 3583 < 3584 ∧ (0x1FF : Word).toNat < 0x200 ∧
      0x200 + [(7 : Byte), 7].length ≤ (0x202 : Word).toNat ∧ (0xFFF : Word).toNat < 4096 ∧
      ({ s0 with pending := [.load [7, 7]] } : State).canLoad = true ∧
      ({ s0 with canLoad := false, pending := [.load [7, 7]] } : State).canLoad = false :=
  ⟨by rw [List.getElem?_replicate]; rfl, by decide, by decide, by decide, by decide, by decide, by decide⟩

/-- Events after which `load` has a meaning, and events after which it has none. -/
theorem witness_LoadingPeriod :
    (after { s0 with canLoad := false, pending := [.reset] }).map (fun t => t.canLoad) = some true ∧
      (after { s0 with pending := [.tick] }).map (fun t => t.canLoad) = some true ∧
      (after { s0 with pending := [.load []] }).map (fun t => t.canLoad) = some false ∧
      (after { s0 with pending := [.step none 0] }).map (fun t => t.canLoad) = some false := by decide

/-- A self-jump, at reset's `PC` and at the highest address that has one; a wait without a key. -/
theorem witness_SelfJump :
    (∃ s : State, s.fault = .none ∧ s.pending = .step none 0 :: [] ∧ s.wait = .running ∧ s.pc.toNat ≤ 0xFFF ∧
      s.fetch = 0x1000 + s.pc) ∧
    (∃ s : State, s.fault = .none ∧ s.pending = .step none 0 :: [] ∧ s.wait = .running ∧ s.pc.toNat = 0xFFF ∧
      s.fetch = 0x1000 + s.pc) :=
  ⟨⟨ready s0 0x1200, by decide⟩, ready { s0 with pc := 0xFFF } 0x1FFF, by decide⟩

theorem witness_UnansweredWait :
    ∃ s : State, s.fault = .none ∧ s.pending = .step none 0 :: [] ∧ s.wait = .awaitingKey 3 :=
  ⟨{ s0 with wait := .awaitingKey 3, pending := [.step none 0] }, by decide⟩

theorem witness_InstructionsChangeOnly : ∃ t, exec (.storeRegs 15) { s0 with i := 0xFF8 } = .next t := ⟨_, rfl⟩

/-- A well-formed state with a full stack and listed memory, whose step answers a next state. -/
theorem witness_StepKeepsWellFormedness :
    State.wf { bytes s0 0xFFF [1] with sp := 16, pending := [.step none 0] } ∧
      (after { bytes s0 0xFFF [1] with sp := 16, pending := [.step none 0] }).isSome = true := by
  unfold State.wf
  decide

/-- A core that is halted, its latch truthful, and that takes a step; so is one that runs. -/
theorem witness_StepKeepsTheLatchTruthful :
    State.latched { s0 with fault := .unknownInstruction 0x200 0, canLoad := false, pending := [.step none 0] } ∧
      State.latched s0 :=
  ⟨{ fresh := by decide
     notAwaiting := fun _ => rfl
     unknown := fun pc w h => by
       cases h
       decide
     overflow := fun h => by cases h
     underflow := fun h => by cases h },
   { fresh := by decide
     notAwaiting := fun _ => rfl
     unknown := fun _ _ h => by cases h
     overflow := fun h => by cases h
     underflow := fun h => by cases h }⟩

theorem witness_ResetInvariants : 0 < 1 ∧ 0 < Config.defaultStackCapacity := by decide

theorem witness_WellFormedMachineNeverStops :
    State.wf s0 ∧ ({ s0 with canLoad := false, pending := [.load []] } : State).canLoad = false := by
  unfold State.wf
  decide

theorem witness_StepKeepsTheParameters :
    (after { s0 with pending := [.tick, .reset] }).map (fun t => (t.stackCapacity, t.pending)) =
      some (16, [.reset]) := by decide

end Sys2Proof.Tests
end

section
/-! The family 10_state.md: who writes `VF` (R22), and which instruction a step runs (R40, R42). -/

namespace Sys2Proof.Machine

/-! ### The word a step fetches once its inputs are supplied -/

@[simp] theorem State.fetch_consume (s : State) (rest : List Event) : (s.consume rest).fetch = s.fetch := rfl

@[simp] theorem State.fetch_supply (s : State) (key : Option Nibble) (rnd : Byte) :
    (s.supply key rnd).fetch = s.fetch := rfl

@[simp] theorem State.fetch_supplyFree (s : State) : s.supplyFree.fetch = s.fetch := rfl

@[simp] theorem State.fault_supplyFree (s : State) : s.supplyFree.fault = s.fault := rfl

@[simp] theorem State.wait_supplyFree (s : State) : s.supplyFree.wait = s.wait := rfl

/-! ### What a step runs -/

/-- A core that is neither halted nor waiting executes the instruction it fetches (R42 steps 3 to 6). -/
theorem State.runStep_of_decodeWord_ok {s : State} {i : Instr} (hfault : s.fault = .none) (hwait : s.wait = .running)
    (hdecode : decodeWord s.fetch = .ok i) : s.runStep = exec i s := by
  simp only [State.runStep, hfault, hwait, hdecode]

/-- The next pending event is a step: it runs with that event's inputs. -/
theorem step_of_pending_step {s : State} {key : Option Nibble} {rnd : Byte} {rest : List Event}
    (hpending : s.pending = .step key rnd :: rest) : step s = ((s.consume rest).supply key rnd).runStep := by
  simp only [step, State.transition, hpending]

/-- No event is pending: a step runs with free inputs. -/
theorem step_of_pending_nil {s : State} (hpending : s.pending = []) : step s = s.supplyFree.runStep := by
  simp only [step, State.transition, hpending]

/-! ### Registers after an instruction -/

/-- Completing an instruction moves `PC` alone, so the registers are those its writes left. -/
theorem State.getV_of_finish {u t : State} {n : NextPc} (h : u.finish n = .next t) (r : Reg) : t.getV r = u.getV r := by
  rw [State.finish_next] at h
  cases h
  exact State.goTo_getV u n r

/-- An instruction whose one register write goes to another register. -/
theorem State.getV_of_setV_finish {u t : State} {x r : Reg} {b : Byte} {n : NextPc}
    (h : (u.setV x b).finish n = .next t) (hr : (x == r) = false) : t.getV r = u.getV r := by
  have hne : r ≠ x := fun e => by simp [e] at hr
  rw [State.getV_of_finish h, State.getV_setV, if_neg hne]

/-- An instruction that writes a result and the flag leaves the other registers. -/
theorem State.getV_of_setVThenFlag_finish {u t : State} {x r : Reg} {result flag : Byte} {n : NextPc}
    (h : (u.setVThenFlag x result flag).finish n = .next t) (hr : (x == r) = false) (hvf : r ≠ vf) :
    t.getV r = u.getV r := by
  have hne : r ≠ x := fun e => by simp [e] at hr
  rw [State.getV_of_finish h, State.getV_setVThenFlag, if_neg hvf, if_neg hne]

/-- An instruction whose last register write puts a flag into `VF` leaves it 0 or 1. -/
theorem State.vf_of_flag_finish {u t : State} {b : Bool} {n : NextPc}
    (h : (u.setV vf (flagByte b)).finish n = .next t) : t.getV vf = 0 ∨ t.getV vf = 1 := by
  rw [State.getV_of_finish h, State.getV_setV, if_pos rfl]
  exact flagByte_cases b

/-- `CALL` writes no register, whether it pushes or raises. -/
theorem getV_execCall {addr : Addr} {s t : State} (h : execCall addr s = .next t) (r : Reg) : t.getV r = s.getV r := by
  rcases execCall_cases addr s with ⟨-, he⟩ | ⟨-, he⟩ | ⟨-, he⟩ <;> rw [he] at h <;> cases h <;> rfl

/-- `RET` writes no register, whether it pops or raises. -/
theorem getV_execRet {s t : State} (h : execRet s = .next t) (r : Reg) : t.getV r = s.getV r := by
  rcases execRet_cases s with ⟨-, he⟩ | ⟨-, -, _, -, he⟩ | ⟨-, he⟩ <;> rw [he] at h <;> cases h <;> rfl

/-- The register frame of every instruction: a register that is no destination, and is not `VF` written as a flag, stays. -/
theorem getV_exec_of_not_names {i : Instr} {s t : State} {r : Reg} (h : exec i s = .next t)
    (hnames : i.names r = false) (hflag : i.producesFlag = true → r ≠ vf) : t.getV r = s.getV r := by
  cases i with
  | call addr => exact getV_execCall h r
  | ret => exact getV_execRet h r
  | ldImm | addImm | ldReg | orReg | andReg | xorReg | rnd | ldFromDt => exact State.getV_of_setV_finish h hnames
  | addReg | subReg | shr | subnReg | shl => exact State.getV_of_setVThenFlag_finish h hnames (hflag rfl)
  | drw x y n =>
    rw [State.getV_of_finish h, State.getV_setV, if_neg (hflag rfl), State.setFb_getV]
  | storeRegs x => rw [State.getV_of_finish h, State.storeBlock_getV]
  | loadRegs x =>
    have habove : ¬ r ≤ x := of_decide_eq_false hnames
    rw [State.getV_of_finish h, State.getV_loadBlock _ _ _ x.isLt, if_neg fun hlt => habove (Nat.le_of_lt_succ hlt)]
  | _ => exact State.getV_of_finish h r

/-- The six flag producers write `VF` last, with a flag (R22). -/
theorem vf_exec_of_producesFlag {i : Instr} {s t : State} (h : exec i s = .next t) (hflag : i.producesFlag = true) :
    t.getV vf = 0 ∨ t.getV vf = 1 := by
  cases i with
  | addReg | subReg | shr | subnReg | shl | drw => exact State.vf_of_flag_finish h
  | _ => simp [Instr.producesFlag] at hflag

/-! ### The obligations -/

/-- Settles O24: a producer's last write is a flag, and every other instruction is held by the register frame at `V[15]`. -/
theorem onlyFlagProducersWriteVf : Obligations.OnlyFlagProducersWriteVf := by
  intro i s t h
  refine ⟨vf_exec_of_producesFlag h, fun hflag hnames => ?_⟩
  exact getV_exec_of_not_names h hnames fun hproduces => by simp [hflag] at hproduces

/-- Settles O41: taking the event off and supplying its inputs leaves `FAULT`, `WAIT` and the word at `PC` alone. -/
theorem stepRunsTheDecodedInstruction : Obligations.StepRunsTheDecodedInstruction := by
  intro s i key rnd rest hfault hwait hpending hdecode
  rw [step_of_pending_step hpending]
  exact State.runStep_of_decodeWord_ok (by simpa using hfault) (by simpa using hwait) (by simpa using hdecode)

/-- Settles O42: the free ticks and inputs leave `FAULT`, `WAIT` and the word at `PC` alone. -/
theorem stepWithFreeInputsRunsTheDecodedInstruction : Obligations.StepWithFreeInputsRunsTheDecodedInstruction := by
  intro s i hfault hwait hpending hdecode
  rw [step_of_pending_nil hpending]
  exact State.runStep_of_decodeWord_ok (by simpa using hfault) (by simpa using hwait) (by simpa using hdecode)

end Sys2Proof.Machine
end

section
/-! The family 20_memory.md: a store is seen by the next fetch (R55, R63). -/

namespace Sys2Proof.Machine

/-- A fetch at `I` after a block store of two or more registers: `V0` is the high byte, `V1` the low one (R55, R156). -/
theorem State.fetchAt_storeBlock (s : State) {n : Nat} (htwo : 2 ≤ n) (hn : n ≤ 16) :
    (s.storeBlock n).fetchAt s.i = wordOfBytes (s.getV 0) (s.getV 1) := by
  have hhigh : (s.storeBlock n).readByte s.i = s.getV 0 :=
    s.readByte_storeBlock n 0 s.i hn (by omega) (by simp [State.indexAddr])
  have hlow : (s.storeBlock n).readByte (s.i + 1) = s.getV 1 := s.readByte_storeBlock n 1 (s.i + 1) hn htwo rfl
  rw [State.fetchAt, hhigh, hlow]

/-- Settles O31: `LD [I],V1` moves `PC` to the word it stored and leaves `FAULT`, `WAIT` and the pending events alone, so the next
step runs what that word decodes to. -/
theorem storedInstructionIsTheNextToRun : Obligations.StoredInstructionIsTheNextToRun := by
  intro s t j key rnd rest hfault hwait hi hpending hdecode hstore
  obtain rfl : (s.storeBlock 2).goTo .advance = t := Host.Outcome.next.inj hstore
  have hfetch : ((s.storeBlock 2).goTo .advance).fetch = wordOfBytes (s.getV 0) (s.getV 1) :=
    calc ((s.storeBlock 2).goTo .advance).fetch
      _ = (s.storeBlock 2).fetchAt ((s.storeBlock 2).pc + 2) := rfl
      _ = (s.storeBlock 2).fetchAt s.i := by rw [State.storeBlock_pc, hi]
      _ = wordOfBytes (s.getV 0) (s.getV 1) := s.fetchAt_storeBlock (by decide) (by decide)
  exact stepRunsTheDecodedInstruction _ j key rnd rest (by simpa using hfault) (by simpa using hwait)
    (by simpa using hpending) (by rw [hfetch, hdecode])

end Sys2Proof.Machine
end

section
/-! The family 30_encoding.md: the decoder and the encoder undo one another up to the ignored bits (R82), and the decoder, the opcode
map (R80) and the table of illegal words (R84) say the same. -/

namespace Sys2Proof

/-! ### Decoding an encoded instruction -/

theorem decodeWord_encode {i : Instr} (hwf : i.wellFormed = true) : decodeWord (encode i) = .ok i := by
  cases i with
  | cls | ret => rfl
  | drw x y n =>
    have hn : n < 16 := Nat.lt_succ_of_le (of_decide_eq_true hwf)
    simp [encode, decodeWord, Nat.mod_eq_of_lt hn]
  | _ => simp [encode, decodeWord]

theorem decodeBytes_encodeBytes_append {i : Instr} (hwf : i.wellFormed = true) (rest : List Byte) :
    decodeBytes (encodeBytes i ++ rest) = .ok (i, rest) := by
  simp [encodeBytes, decodeBytes, decodeWord_encode hwf]

/-- Settles O1: the fields of the word a format builds are the ones it was built from, so the decoder takes the arm of the very
instruction; its two bytes join to that word again. -/
theorem decodeOfEncodeIsTheInstruction : Obligations.DecodeOfEncodeIsTheInstruction := fun _ hwf =>
  ⟨decodeWord_encode hwf, decodeBytes_encodeBytes_append hwf⟩

/-! ### A word with known fields -/

theorem formatA_eq_of_fieldOp {w : Word} {op : Nibble} (hop : fieldOp w = op) : formatA op (fieldAddr w) = w := by
  rw [← hop, formatA_fields]

theorem formatXK_eq_of_fields {w : Word} {op : Nibble} {kk : Byte} (hop : fieldOp w = op) (hkk : fieldKk w = kk) :
    formatXK op (fieldX w) kk = w := by
  rw [← hop, ← hkk, formatXK_fields]

theorem formatXYN_eq_of_fields {w : Word} {op n : Nibble} (hop : fieldOp w = op) (hn : fieldN w = n) :
    formatXYN op (fieldX w) (fieldY w) n = w := by
  rw [← hop, ← hn, formatXYN_fields]

/-! ### A word under a mask: a field that the mask keeps whole -/

theorem extractLsb'_and_of_allOnes (w : Word) {mask : Word} {start len : Nat}
    (hmask : mask.extractLsb' start len = BitVec.allOnes len) :
    (w &&& mask).extractLsb' start len = w.extractLsb' start len := by
  rw [BitVec.extractLsb'_and, hmask, BitVec.and_allOnes]

theorem fieldOp_and (w : Word) {mask : Word} (hmask : fieldOp mask = 0xF#4) : fieldOp (w &&& mask) = fieldOp w :=
  extractLsb'_and_of_allOnes w hmask

theorem fieldX_and (w : Word) {mask : Word} (hmask : fieldX mask = 15) : fieldX (w &&& mask) = fieldX w :=
  congrArg BitVec.toFin (extractLsb'_and_of_allOnes w (BitVec.toFin_inj.mp hmask))

theorem fieldN_and (w : Word) {mask : Word} (hmask : fieldN mask = 0xF#4) : fieldN (w &&& mask) = fieldN w :=
  extractLsb'_and_of_allOnes w hmask

theorem fieldKk_and (w : Word) {mask : Word} (hmask : fieldKk mask = 0xFF#8) : fieldKk (w &&& mask) = fieldKk w :=
  extractLsb'_and_of_allOnes w hmask

theorem and_allBits (w : Word) : w &&& 0xFFFF#16 = w := BitVec.and_allOnes

/-- The bits `CLS` and `RET` use: the 2nd nibble is ignored (R72, R82). -/
theorem and_ignoreX (w : Word) : w &&& 0xF0FF#16 = formatXK (fieldOp w) 0 (fieldKk w) := and_opLowMask w

/-- The bits `SHR` and `SHL` use: the 3rd nibble is ignored (R82). -/
theorem and_ignoreY (w : Word) : w &&& 0xFF0F#16 = formatXYN (fieldOp w) (fieldX w) 0 (fieldN w) := by
  have hop := fieldOp_and w (mask := 0xFF0F#16) rfl
  have hx := fieldX_and w (mask := 0xFF0F#16) rfl
  have hn := fieldN_and w (mask := 0xFF0F#16) rfl
  have hy : fieldY (w &&& 0xFF0F#16) = 0 := by
    unfold fieldY
    rw [BitVec.extractLsb'_and]
    exact congrArg BitVec.toFin BitVec.and_zero
  rw [← formatXYN_fields (w &&& 0xFF0F#16), hop, hx, hy, hn]

theorem fields_of_and_ignoreX {w c : Word} (h : w &&& 0xF0FF#16 = c) : fieldOp w = fieldOp c ∧ fieldKk w = fieldKk c := by
  subst h
  exact ⟨(fieldOp_and w rfl).symm, (fieldKk_and w rfl).symm⟩

theorem fields_of_and_ignoreY {w c : Word} (h : w &&& 0xFF0F#16 = c) :
    fieldOp w = fieldOp c ∧ fieldX w = fieldX c ∧ fieldN w = fieldN c := by
  subst h
  exact ⟨(fieldOp_and w rfl).symm, (fieldX_and w rfl).symm, (fieldN_and w rfl).symm⟩

/-! ### Ignored bits -/

/-- Every arm of the decoder builds an instruction from the fields it read, so encoding it gives those fields back. The cases apart
are `CLS` and `RET`, whose words the encoder writes out, and the row count of `DRW`. -/
theorem wellFormed_and_encode_of_decodeWord_ok {w : Word} {i : Instr} (h : decodeWord w = .ok i) :
    i.wellFormed = true ∧ encode i = w &&& i.usedBits := by
  unfold decodeWord at h
  split at h <;> (try split at h) <;> cases h <;>
    simp [*, Instr.wellFormed, Instr.usedBits, encode, and_allBits, and_ignoreX, and_ignoreY,
      formatA_eq_of_fieldOp, formatXK_eq_of_fields, formatXYN_eq_of_fields]
  case h_1 => rfl
  case h_2 => rfl
  case h_14 => exact Nat.le_of_lt_succ (fieldN w).isLt

/-- A word that has the encoding of `i` on the bits `i` uses decodes to `i`. -/
theorem decodeWord_of_and_usedBits {w : Word} {i : Instr} (hwf : i.wellFormed = true)
    (h : w &&& i.usedBits = encode i) : decodeWord w = .ok i := by
  cases i with
  | cls | ret =>
    obtain ⟨hop, hkk⟩ := fields_of_and_ignoreX h
    rw [decodeWord, hop, hkk]
    rfl
  | shr x | shl x =>
    obtain ⟨hop, hx, hn⟩ := fields_of_and_ignoreY h
    simp [decodeWord, hop, hx, hn, encode]
  | _ =>
    rw [← decodeWord_encode hwf, ← h]
    exact congrArg decodeWord (and_allBits w).symm

/-- Settles O2: a decoded word is its instruction's encoding on the bits the instruction uses, and those bits alone decide what a word
decodes to. -/
theorem onlyIgnoredBitsAreLost : Obligations.OnlyIgnoredBitsAreLost := by
  refine ⟨fun w i h => wellFormed_and_encode_of_decodeWord_ok h, fun w w' i h hagree => ?_⟩
  obtain ⟨hwf, hencode⟩ := wellFormed_and_encode_of_decodeWord_ok h
  exact decodeWord_of_and_usedBits hwf (hagree.trans hencode.symm)

/-! ### The opcode map -/

/-- The mnemonic of the instruction a word decodes to. -/
def decodedMnemonic (w : Word) : Option String := (decodeWord w).toOption.map Instr.mnemonic

/-- The groups whose low byte selects the instruction (R72, R76). -/
def variantIsLowByte (op : Nibble) : Bool := op == 0x0 || op == 0xE || op == 0xF

/-- The groups whose 4th nibble selects the instruction (R75). -/
def variantIsNibble (op : Nibble) : Bool := op == 0x5 || op == 0x8 || op == 0x9

/-- Which instruction a word is depends on its leading nibble and its group's variant only. -/
theorem decodedMnemonic_congr {w w' : Word} (hop : fieldOp w = fieldOp w')
    (hkk : variantIsLowByte (fieldOp w') = true → fieldKk w = fieldKk w')
    (hn : variantIsNibble (fieldOp w') = true → fieldN w = fieldN w') : decodedMnemonic w = decodedMnemonic w' := by
  unfold decodedMnemonic decodeWord
  rw [hop]
  generalize fieldOp w' = op at hkk hn ⊢
  split
  case h_1 | h_15 | h_16 => rw [hkk rfl]; split <;> rfl
  case h_6 | h_9 | h_10 => rw [hn rfl]; split <;> rfl
  all_goals rfl

/-- A row's mask keeps the leading nibble, and the variant where the row's group has one. -/
theorem opcodeTable_masks : ∀ r ∈ opcodeTable, fieldOp r.mask = 0xF ∧
    (variantIsLowByte (fieldOp r.pattern) = true → fieldKk r.mask = 0xFF) ∧
    (variantIsNibble (fieldOp r.pattern) = true → fieldN r.mask = 0xF) := by decide

theorem opcodeTable_patterns : ∀ r ∈ opcodeTable, decodedMnemonic r.pattern = some r.mnemonic := by decide

/-- A word that a row selects decodes as the row's pattern does. -/
theorem decodedMnemonic_of_selects {r : OpcodeRow} (hr : r ∈ opcodeTable) {w : Word} (h : r.selects w = true) :
    decodedMnemonic w = some r.mnemonic := by
  obtain ⟨hop, hkk, hn⟩ := opcodeTable_masks r hr
  have hpattern : r.pattern = w &&& r.mask := (beq_iff_eq.mp h).symm
  rw [← opcodeTable_patterns r hr]
  refine decodedMnemonic_congr ?_ (fun hvariant => ?_) (fun hvariant => ?_)
  · rw [hpattern, fieldOp_and w hop]
  · rw [hpattern, fieldKk_and w (hkk hvariant)]
  · rw [hpattern, fieldN_and w (hn hvariant)]

open Laws.EncodeRow in
/-- Every instruction's word is selected by a row that carries its mnemonic. -/
theorem encode_selected (i : Instr) : Statement i := by
  cases i
  exacts [cls, ret, jp _, call _, seImm _ _, sneImm _ _, seReg _ _, ldImm _ _, addImm _ _, ldReg _ _, orReg _ _,
    andReg _ _, xorReg _ _, addReg _ _, subReg _ _, shr _, subnReg _ _, shl _, sneReg _ _, ldI _, jpV0 _, rnd _ _,
    drw _ _ _, skp _, sknp _, ldFromDt _, ldKey _, ldToDt _, ldToSt _, addI _, ldGlyph _, ldBcd _, storeRegs _,
    loadRegs _]

/-- The rows of an instruction look at none of its ignored bits. -/
theorem mask_and_usedBits (i : Instr) :
    ∀ r ∈ opcodeTable, r.mnemonic = i.mnemonic → r.mask &&& i.usedBits = r.mask := by
  cases i with
  | cls => show ∀ r ∈ opcodeTable, r.mnemonic = "CLS" → r.mask &&& 0xF0FF = r.mask; decide
  | ret => show ∀ r ∈ opcodeTable, r.mnemonic = "RET" → r.mask &&& 0xF0FF = r.mask; decide
  | shr x => show ∀ r ∈ opcodeTable, r.mnemonic = "SHR Vx" → r.mask &&& 0xFF0F = r.mask; decide
  | shl x => show ∀ r ∈ opcodeTable, r.mnemonic = "SHL Vx" → r.mask &&& 0xFF0F = r.mask; decide
  | _ => exact fun r _ _ => and_allBits r.mask

/-- A word that decodes is selected by a row of its instruction. -/
theorem exists_selects_of_decodeWord_ok {w : Word} {i : Instr} (h : decodeWord w = .ok i) :
    ∃ r ∈ opcodeTable, r.mnemonic = i.mnemonic ∧ r.selects w = true := by
  obtain ⟨r, hr, hname, hselects⟩ := encode_selected i
  refine ⟨r, hr, hname, ?_⟩
  obtain ⟨-, hencode⟩ := wellFormed_and_encode_of_decodeWord_ok h
  rwa [OpcodeRow.selects, hencode, BitVec.and_assoc, BitVec.and_comm i.usedBits, mask_and_usedBits i r hr hname] at hselects

/-- No two rows have the same mnemonic. -/
theorem opcodeTable_mnemonics_nodup : (opcodeTable.map fun r => r.mnemonic).Nodup := by decide

/-- Settles O3: every row that selects the word has the mnemonic the word decodes to, and no two rows have one mnemonic; so at most one
row selects it, one does if it decodes, and none if it does not. -/
theorem decoderAgreesWithOpcodeMap : Obligations.DecoderAgreesWithOpcodeMap := by
  intro w
  have hrow {r : OpcodeRow} (hr : r ∈ opcodeTable.filter fun r => r.selects w) : decodedMnemonic w = some r.mnemonic :=
    decodedMnemonic_of_selects (List.mem_filter.mp hr).1 (List.mem_filter.mp hr).2
  cases h : decodeWord w with
  | error e =>
    refine ⟨decodeWord_error h, List.eq_nil_iff_forall_not_mem.mpr fun r hr => ?_⟩
    have := hrow hr
    simp [decodedMnemonic, h, Except.toOption] at this
  | ok i =>
    have hname : decodedMnemonic w = some i.mnemonic := by simp [decodedMnemonic, h, Except.toOption]
    have hnodup : ((opcodeTable.filter fun r => r.selects w).map fun r => r.mnemonic).Nodup :=
      opcodeTable_mnemonics_nodup.sublist (List.filter_sublist.map _)
    refine List.perm_singleton.mp ((List.perm_ext_iff_of_nodup hnodup (List.nodup_singleton _)).mpr fun m => ?_)
    rw [List.mem_map, List.mem_singleton]
    constructor
    · rintro ⟨r, hr, rfl⟩
      exact Option.some.inj ((hrow hr).symm.trans hname)
    · rintro rfl
      obtain ⟨r, hr, hmnemonic, hselects⟩ := exists_selects_of_decodeWord_ok h
      exact ⟨r, List.mem_filter.mpr ⟨hr, hselects⟩, hmnemonic⟩

/-! ### The table of illegal words -/

theorem fieldOp_toNat (w : Word) : (fieldOp w).toNat = w.toNat / 4096 := by
  have := w.isLt
  rw [fieldOp, BitVec.extractLsb'_toNat, Nat.shiftRight_eq_div_pow]
  omega

theorem fieldN_toNat (w : Word) : (fieldN w).toNat = w.toNat % 16 := by
  rw [fieldN, BitVec.extractLsb'_toNat, Nat.shiftRight_zero]

theorem fieldKk_toNat (w : Word) : (fieldKk w).toNat = w.toNat % 256 := by
  rw [fieldKk, BitVec.extractLsb'_toNat, Nat.shiftRight_zero]

/-- Settles O4: arm by arm of the decoder, in the fields of the word: a group with a variant refuses the variants it does not
list, a group without one refuses nothing. -/
theorem illegalWordsAreThoseListed : Obligations.IllegalWordsAreThoseListed := by
  intro w
  rw [← fieldOp_toNat, ← fieldN_toNat, ← fieldKk_toNat]
  have hop := (fieldOp w).isLt
  have hn := (fieldN w).isLt
  unfold decodeWord
  split
  -- groups 0x0, 0x5, 0x9, 0xE and 0xF: R84 lists the variants that are legal
  case h_1 | h_6 | h_10 | h_15 | h_16 => split <;> simp_all [BitVec.toNat_eq]
  -- group 0x8: R84 lists the seven that are illegal, which are the rest of the sixteen
  case h_9 => split <;> simp_all [BitVec.toNat_eq]; omega
  -- the arm for no nibble
  case h_17 => simp_all [BitVec.toNat_eq]; omega
  -- the ten groups without an illegal word
  all_goals simp [*]

/-- Settles O5: the decoder computes each of them. -/
theorem writtenOutWordsDecode : Obligations.WrittenOutWordsDecode := by
  unfold Obligations.WrittenOutWordsDecode
  decide

end Sys2Proof
end

section
/-! The family 40_display.md: clearing the frame buffer (R101), drawing a sprite (R102) and drawing it twice (R103). -/

namespace Sys2Proof.Machine

/-! ### Frames: what each named update may change -/

theorem ChangesOnly.refl (written : Part → Prop) (s : State) : ChangesOnly written s s := by
  refine ⟨⟨rfl, rfl, rfl, rfl, rfl, rfl⟩, fun p _ => ?_⟩
  cases p with
  | stack => exact ⟨rfl, rfl⟩
  | _ => rfl

section
variable {written : Part → Prop} {s t : State}

theorem ChangesOnly.setV (h : ChangesOnly written s t) {x : Reg} (hx : written (.reg x)) (b : Byte) :
    ChangesOnly written s (t.setV x b) := by
  refine ⟨h.1, fun p hp => ?_⟩
  cases p with
  | reg r =>
    have hne : r ≠ x := fun e => hp (e ▸ hx)
    exact (State.getV_setV t x b r).trans ((if_neg hne).trans (h.2 _ hp))
  | _ => exact h.2 _ hp

theorem ChangesOnly.setFb (h : ChangesOnly written s t) (hdisplay : written .display) (fb : FrameBuffer) :
    ChangesOnly written s (t.setFb fb) := by
  refine ⟨h.1, fun p hp => ?_⟩
  cases p with
  | display => exact (hp hdisplay).elim
  | _ => exact h.2 _ hp

theorem ChangesOnly.goTo (h : ChangesOnly written s t) (n : NextPc) : ChangesOnly written s (t.goTo n) :=
  ⟨h.1, fun p hp => by cases p <;> exact h.2 _ hp⟩

end

/-! ### Flags -/

@[simp] theorem flagByte_eq_one_iff (b : Bool) : flagByte b = 1 ↔ b = true := by cases b <;> decide

@[simp] theorem flagByte_eq_zero_iff (b : Bool) : flagByte b = 0 ↔ b = false := by cases b <;> decide

/-! ### The bits of a sprite and the pixels they fall on -/

/-- A 1 bit of some dots falls on a set pixel exactly when one of the 2048 pixels is set and covered. -/
theorem any_dot_on_set_pixel_iff (dots : List Dot) (fb : FrameBuffer) :
    (dots.any fun d => d.bit && fb.pixel d.px d.py) = true ↔
      ∃ px < 64, ∃ py < 32, fb.pixel px py = true ∧ (dots.any fun d => d.covers px py) = true := by
  simp only [List.any_eq_true, Bool.and_eq_true, Dot.covers, decide_eq_true_eq]
  constructor
  · rintro ⟨d, hd, hbit, hset⟩
    exact ⟨d.px % 64, Nat.mod_lt _ (by decide), d.py % 32, Nat.mod_lt _ (by decide), by rwa [fb.pixel_mod],
      d, hd, ⟨hbit, Nat.mod_mod ..⟩, Nat.mod_mod ..⟩
  · rintro ⟨px, -, py, -, hset, d, hd, ⟨hbit, hx⟩, hy⟩
    exact ⟨d, hd, hbit, by rwa [fb.pixel_congr hx.symm hy.symm]⟩

/-- The bits of the sprite that `DRW Vx,Vy,n` reads, with the places it draws them at. -/
def State.dots (s : State) (x y : Reg) (n : Nat) : List Dot :=
  spriteDots (s.getV x).toNat (s.getV y).toNat n fun r => s.readByte (s.indexAddr r)

theorem State.spriteDots_indexBytes (s : State) (x y : Reg) (n : Nat) :
    (spriteDots (s.getV x).toNat (s.getV y).toNat (s.indexBytes n).length fun r => (s.indexBytes n).getD r 0) =
      s.dots x y n := by
  rw [State.indexBytes_length, State.dots, spriteDots, spriteDots]
  refine List.flatMap_congr fun r hr => ?_
  rw [s.indexBytes_getD (List.mem_range.mp hr)]

/-- The dots cover just the pixels of the wrapped mask (R103). -/
theorem State.any_dots_covers (s : State) (x y : Reg) (n qx qy : Nat) :
    ((s.dots x y n).any fun d => d.covers qx qy) = s.spriteCovers x y n (qx % 64) (qy % 32) := by
  simp only [State.dots, spriteDots, State.spriteCovers, List.any_flatMap, List.any_map, Function.comp_def, Dot.covers,
    State.spriteBitAt, Bool.beq_eq_decide_eq, @eq_comm _ (qx % 64), @eq_comm _ (qy % 32)]

/-- The mask depends on `V[x]`, `V[y]`, `I` and memory only. -/
theorem State.spriteCovers_congr {s t : State} {x y : Reg} (hx : t.getV x = s.getV x) (hy : t.getV y = s.getV y)
    (hi : t.i = s.i) (hbytes : ∀ a, t.readByte a = s.readByte a) (n px py : Nat) :
    t.spriteCovers x y n px py = s.spriteCovers x y n px py := by
  simp only [State.spriteCovers, State.spriteBitAt, State.indexAddr, hx, hy, hi, hbytes]

/-! ### The drawing -/

theorem State.pixel_sprite (s : State) (x y : Reg) {n : Nat} (hn : n ≤ 32) (qx qy : Nat) :
    (s.sprite x y n).fb.pixel qx qy = (s.fb.pixel qx qy ^^ s.spriteCovers x y n (qx % 64) (qy % 32)) := by
  have hlen : (s.indexBytes n).length ≤ 32 := (s.indexBytes_length n).trans_le hn
  rw [State.sprite, (Canvas.plotRows_spec _ _ _ _ hlen).1, State.spriteDots_indexBytes, State.any_dots_covers]

theorem State.hit_sprite_iff (s : State) (x y : Reg) {n : Nat} (hn : n ≤ 32) :
    (s.sprite x y n).hit = true ↔
      ∃ px < 64, ∃ py < 32, s.fb.pixel px py = true ∧ s.spriteCovers x y n px py = true := by
  have hlen : (s.indexBytes n).length ≤ 32 := (s.indexBytes_length n).trans_le hn
  rw [State.sprite, (Canvas.plotRows_spec _ _ _ _ hlen).2, State.spriteDots_indexBytes, Bool.false_or,
    any_dot_on_set_pixel_iff]
  refine exists_congr fun px => and_congr_right fun hpx => exists_congr fun py => and_congr_right fun hpy => ?_
  rw [State.any_dots_covers, Nat.mod_eq_of_lt hpx, Nat.mod_eq_of_lt hpy]

/-! ### The state `DRW` answers -/

/-- The state after `DRW Vx,Vy,n` (R102). -/
def State.afterDrw (s : State) (x y : Reg) (n : Nat) : State :=
  ((s.setFb (s.sprite x y n).fb).setV vf (s.sprite x y n).collisionFlag).goTo .advance

theorem exec_drw (s : State) (x y : Reg) (n : Nat) : exec (.drw x y n) s = .next (s.afterDrw x y n) := rfl

theorem State.fb_afterDrw (s : State) (x y : Reg) (n : Nat) : (s.afterDrw x y n).fb = (s.sprite x y n).fb := rfl

theorem State.vf_afterDrw (s : State) (x y : Reg) (n : Nat) :
    (s.afterDrw x y n).getV vf = flagByte (s.sprite x y n).hit := by
  simp [State.afterDrw, Canvas.collisionFlag]

theorem State.changesOnly_afterDrw (s : State) (x y : Reg) (n : Nat) :
    ChangesOnly (fun p => p = .display ∨ p = .reg vf) s (s.afterDrw x y n) :=
  (((ChangesOnly.refl _ s).setFb (.inl rfl) _).setV (.inr rfl) _).goTo _

/-- The sprite's mask is that of the state before when neither coordinate register is `VF`. -/
theorem State.spriteCovers_afterDrw (s : State) {x y : Reg} (hx : x ≠ vf) (hy : y ≠ vf) (n px py : Nat) :
    (s.afterDrw x y n).spriteCovers x y n px py = s.spriteCovers x y n px py := by
  obtain ⟨-, hkeeps⟩ := s.changesOnly_afterDrw x y n
  exact State.spriteCovers_congr (hkeeps (.reg x) (by simp [hx])) (hkeeps (.reg y) (by simp [hy]))
    (hkeeps .index (by simp)) (fun a => hkeeps (.byte a) (by simp)) n px py

/-! ### The obligations -/

/-- Settles O7: a sprite of at most 32 rows has its bits on different pixels, so drawing them one after another xors the whole mask
at once, and `VF` is the flag of the pixels that were set under it. -/
theorem drwXorsTheSpriteMask : Obligations.DrwXorsTheSpriteMask := by
  intro s x y n hn
  have hrows : n ≤ 32 := hn.trans (by decide)
  refine ⟨decodeWord_encode (i := .drw x y n) (decide_eq_true hn), s.afterDrw x y n, exec_drw s x y n,
    fun px hpx py hpy => ?_, fun hcollides => ?_, fun hclear => ?_, rfl, s.changesOnly_afterDrw x y n⟩
  · rw [State.fb_afterDrw, s.pixel_sprite x y hrows, Nat.mod_eq_of_lt hpx, Nat.mod_eq_of_lt hpy]
  · rwa [State.vf_afterDrw, flagByte_eq_one_iff, s.hit_sprite_iff x y hrows]
  · rw [State.vf_afterDrw, flagByte_eq_zero_iff, ← Bool.not_eq_true, s.hit_sprite_iff x y hrows]
    rintro ⟨px, hpx, py, hpy, hset, hcovered⟩
    exact Bool.false_ne_true ((hclear px hpx py hpy hset).symm.trans hcovered)

/-- Settles O8: both draws xor the same mask, which the second so takes away; under the mask a pixel is set after the first draw
exactly when it was clear before. -/
theorem drawingTwiceRestoresTheFrameBuffer : Obligations.DrawingTwiceRestoresTheFrameBuffer := by
  intro s t x y n hn hx hy h
  obtain rfl : s.afterDrw x y n = t := Host.Outcome.next.inj h
  have hrows : n ≤ 32 := hn.trans (by decide)
  refine ⟨_, exec_drw _ x y n, FrameBuffer.ext_pixel fun px py => ?_, ?_⟩
  · rw [State.fb_afterDrw, State.pixel_sprite _ x y hrows, State.fb_afterDrw, s.pixel_sprite x y hrows,
      s.spriteCovers_afterDrw hx hy, Bool.xor_assoc, Bool.xor_self, Bool.xor_false]
  · rw [State.vf_afterDrw, flagByte_eq_one_iff, State.hit_sprite_iff _ x y hrows]
    refine exists_congr fun px => and_congr_right fun hpx => exists_congr fun py => and_congr_right fun hpy => ?_
    rw [s.spriteCovers_afterDrw hx hy, and_congr_left_iff]
    intro hcovered
    rw [State.fb_afterDrw, s.pixel_sprite x y hrows, Nat.mod_eq_of_lt hpx, Nat.mod_eq_of_lt hpy, hcovered,
      Bool.xor_true, Bool.not_eq_true']

/-- Settles O6: `CLS` writes the cleared frame buffer and moves `PC`; its decoding does not look at the 2nd nibble. -/
theorem clsClearsFrameBuffer : Obligations.ClsClearsFrameBuffer := by
  refine ⟨fun n => by simp [decodeWord], fun s => ⟨(s.setFb FrameBuffer.clear).goTo .advance, rfl, ?_, rfl, ?_⟩⟩
  · exact fun px _ py _ => FrameBuffer.pixel_clear px py
  · exact ((ChangesOnly.refl (fun p => p = .display) s).setFb rfl _).goTo _

end Sys2Proof.Machine
end

section
/-! The family 41_control_transfer.md: the program-counter multiplexer (R110, R118), the jumps (R112, R119), the compare-and-skips
(R114 to R117), and `CALL` and `RET` (R111, R113). -/

namespace Sys2Proof

/-! ### The numbers an XYN word's fields stand for -/

theorem formatXYN_toNat_div (op : Nibble) (x y : Reg) (n : Nibble) :
    (formatXYN op x y n).toNat / 4096 = op.toNat := by
  rw [← fieldOp_toNat, fieldOp_formatXYN]

theorem formatXYN_toNat_mod (op : Nibble) (x y : Reg) (n : Nibble) :
    (formatXYN op x y n).toNat % 16 = n.toNat := by
  rw [← fieldN_toNat, fieldN_formatXYN]

end Sys2Proof

namespace Sys2Proof.Machine

/-! ### The policies as `PC` values -/

/-- The policy of `SE` (R114, R116). -/
theorem NextPc.target_skipWhen_beq (pc : Word) (a b : Byte) :
    (NextPc.skipWhen (a == b)).target pc = if a = b then pc + 4 else pc + 2 := by
  simp only [NextPc.target_skipWhen, beq_iff_eq]

/-- The policy of `SNE` (R115, R117). -/
theorem NextPc.target_skipWhen_bne (pc : Word) (a b : Byte) :
    (NextPc.skipWhen (a != b)).target pc = if a = b then pc + 2 else pc + 4 := by
  simp only [NextPc.target_skipWhen, bne_iff_ne, ite_not]

/-- The target of `JP V0,addr` is the whole sum: it does not reach 65536 (R119). -/
theorem byteWord_add_addrWord_toNat (b : Byte) (addr : Addr) :
    (byteWord b + addrWord addr).toNat = b.toNat + addr.toNat := by
  have := b.isLt
  have := addr.isLt
  rw [BitVec.toNat_add, byteWord_toNat, addrWord_toNat]
  omega

/-- The key `SKP` and `SKNP` ask for is the one a claim calls named by `V[x]` (R171). -/
theorem State.keyIs_eq_true_iff_keyNamedBy (s : State) (x : Reg) : s.keyIs x = true ↔ s.keyNamedBy x := s.keyIs_iff x

/-! ### `PC` after an instruction -/

theorem State.pc_of_finish {u t : State} {n : NextPc} (h : u.finish n = .next t) : t.pc = n.target u.pc := by
  rw [State.finish_next] at h
  cases h
  rfl

/-- A `CALL` that does not raise is at its address (R113). -/
theorem pc_execCall {addr : Addr} {s t : State} (h : execCall addr s = .next t) (hfault : t.fault = .none) :
    t.pc = addrWord addr := by
  rcases execCall_cases addr s with ⟨-, he⟩ | ⟨-, he⟩ | ⟨-, he⟩ <;> rw [he] at h <;> cases h
  · rfl
  · simp at hfault

/-- A `RET` that does not raise is at the address in the newest slot (R111). -/
theorem pc_execRet {s t : State} (h : execRet s = .next t) (hfault : t.fault = .none) :
    s.stack[s.sp - 1]? = some t.pc := by
  rcases execRet_cases s with ⟨-, he⟩ | ⟨-, -, a, hslot, he⟩ | ⟨-, he⟩ <;> rw [he] at h <;> cases h
  · simp at hfault
  · exact hslot

/-- Where `SKP` goes (R171). -/
theorem pc_execSkp {x : Reg} {s t : State} (h : execSkp x s = .next t) :
    (s.keyNamedBy x → t.pc = s.pc + 4) ∧ (¬ s.keyNamedBy x → t.pc = s.pc + 2) := by
  rw [State.pc_of_finish h, NextPc.target_skipWhen, ← s.keyIs_eq_true_iff_keyNamedBy]
  exact ⟨fun hkey => if_pos hkey, fun hkey => if_neg hkey⟩

/-- Where `SKNP` goes (R172). -/
theorem pc_execSknp {x : Reg} {s t : State} (h : execSknp x s = .next t) :
    (s.keyNamedBy x → t.pc = s.pc + 2) ∧ (¬ s.keyNamedBy x → t.pc = s.pc + 4) := by
  rw [State.pc_of_finish h, NextPc.target_skipWhen, ← s.keyIs_eq_true_iff_keyNamedBy]
  exact ⟨fun hkey => if_neg (by simp [hkey]), fun hkey => if_pos (by simpa using hkey)⟩

/-- An instruction that leaves the latch set, where it was clear, has raised and so left `PC` (R110). -/
theorem pc_exec_of_raised {i : Instr} {s t : State} (hclear : s.fault = .none) (h : exec i s = .next t)
    (hraised : t.fault ≠ .none) : t.pc = s.pc := by
  rcases exec_cases i s with ⟨u, n, he, -, hkeeps, -⟩ | ⟨_, -, -, he⟩ | ⟨-, -, he⟩ | ⟨-, he⟩ <;> rw [he] at h <;> cases h
  · exact absurd (hkeeps.trans hclear) hraised
  · rfl
  · rfl

/-! ### Frames -/

theorem ChangesOnly.setStack {written : Part → Prop} {s t : State} (h : ChangesOnly written s t)
    (hstack : written .stack) (stack : List Word) (sp : Nat) : ChangesOnly written s (t.setStack stack sp) := by
  refine ⟨h.1, fun p hp => ?_⟩
  cases p with
  | stack => exact (hp hstack).elim
  | _ => exact h.2 _ hp

theorem State.changesOnlyPc_goTo (s : State) (n : NextPc) : ChangesOnlyPc s (s.goTo n) := (ChangesOnly.refl _ s).goTo n

/-- The frame of a completing `CALL` or `RET`. -/
theorem State.changesOnly_setStack_goTo (s : State) (stack : List Word) (sp : Nat) (n : NextPc) :
    ChangesOnly (fun p => p = .stack) s ((s.setStack stack sp).goTo n) :=
  ((ChangesOnly.refl (fun p => p = .stack) s).setStack rfl stack sp).goTo n

/-! ### The obligations -/

/-- Settles O16: an instruction that raised left `PC`; one that completed ends in its policy's target, which for `CALL` and `RET`
is read off what they can do. -/
theorem programCounterPolicy : Obligations.ProgramCounterPolicy := by
  intro i s t hclear h
  refine ⟨pc_exec_of_raised hclear h, fun hfault => ?_⟩
  cases i with
  | jp addr => exact (congrArg BitVec.toNat (State.pc_of_finish h)).trans (addrWord_toNat addr)
  | call addr => exact (congrArg BitVec.toNat (pc_execCall h hfault)).trans (addrWord_toNat addr)
  | jpV0 addr => exact (congrArg BitVec.toNat (State.pc_of_finish h)).trans (byteWord_add_addrWord_toNat _ addr)
  | ret => exact pc_execRet h hfault
  | seImm | seReg => exact (State.pc_of_finish h).trans (NextPc.target_skipWhen_beq ..)
  | sneImm | sneReg => exact (State.pc_of_finish h).trans (NextPc.target_skipWhen_bne ..)
  | skp x => exact pc_execSkp h
  | sknp x => exact pc_execSknp h
  | storeRegs x =>
    have hpc := State.pc_of_finish h
    rwa [State.storeBlock_pc] at hpc
  | loadRegs x =>
    have hpc := State.pc_of_finish h
    rwa [State.loadBlock_pc] at hpc
  | _ => exact State.pc_of_finish h

/-- Settles O9: the three things `RET` can do; its decoding does not look at the 2nd nibble. -/
theorem retPopsOrUnderflows : Obligations.RetPopsOrUnderflows := by
  refine ⟨fun n => by simp [decodeWord], fun s => ?_⟩
  rcases execRet_cases s with ⟨hempty, he⟩ | ⟨hpos, -, a, hslot, he⟩ | ⟨hout, -⟩
  · exact ⟨fun _ => he, fun hpos _ => absurd hempty hpos.ne'⟩
  · exact ⟨fun hempty => absurd hempty hpos.ne', fun _ _ =>
      ⟨_, he, hslot, rfl, rfl, s.changesOnly_setStack_goTo ..⟩⟩
  · exact ⟨fun hempty => by omega, fun _ hle => by omega⟩

/-- Settles O10: the three things `CALL` can do. -/
theorem callPushesOrOverflows : Obligations.CallPushesOrOverflows := by
  intro s addr
  refine ⟨decodeWord_encode (i := .call addr) rfl, ?_⟩
  rcases execCall_cases addr s with ⟨hroom, he⟩ | ⟨hfull, he⟩ | ⟨hout, -⟩
  · exact ⟨fun hfull => absurd hfull hroom.ne, fun _ =>
      ⟨_, he, addrWord_toNat addr, rfl, List.getElem?_set_self hroom, fun j hj => List.getElem?_set_ne hj.symm,
        s.changesOnly_setStack_goTo ..⟩⟩
  · exact ⟨fun _ => he, fun hroom => absurd hfull hroom.ne⟩
  · exact ⟨fun hfull => absurd hfull hout.ne', fun hroom => absurd hroom hout.not_gt⟩

/-- Settles O11: `JP` writes nothing and hands the multiplexer its address. -/
theorem jumpGoesToItsAddress : Obligations.JumpGoesToItsAddress := fun s addr =>
  ⟨decodeWord_encode (i := .jp addr) rfl, _, rfl, addrWord_toNat addr, s.changesOnlyPc_goTo _⟩

/-- Settles O12: `JP V0,addr` writes nothing and hands the multiplexer a sum that does not wrap. -/
theorem jumpWithOffsetAddsV0 : Obligations.JumpWithOffsetAddsV0 := fun s addr =>
  ⟨decodeWord_encode (i := .jpV0 addr) rfl, _, rfl, byteWord_add_addrWord_toNat (s.getV 0) addr, s.changesOnlyPc_goTo _⟩

/-- Settles O13: both write nothing and hand the multiplexer the policy of their comparison. -/
theorem compareWithImmediateSkips : Obligations.CompareWithImmediateSkips := by
  intro s x kk
  constructor
  · exact ⟨decodeWord_encode (i := .seImm x kk) rfl, _, rfl, NextPc.target_skipWhen_beq .., s.changesOnlyPc_goTo _⟩
  · exact ⟨decodeWord_encode (i := .sneImm x kk) rfl, _, rfl, NextPc.target_skipWhen_bne .., s.changesOnlyPc_goTo _⟩

/-- Settles O14: as for the immediate forms; the words with another 4th nibble are in R84's table of illegal words. -/
theorem compareRegistersSkips : Obligations.CompareRegistersSkips := by
  intro s x y
  refine ⟨?_, ?_, fun n hn => ?_⟩
  · exact ⟨decodeWord_encode (i := .seReg x y) rfl, _, rfl, NextPc.target_skipWhen_beq .., s.changesOnlyPc_goTo _⟩
  · exact ⟨decodeWord_encode (i := .sneReg x y) rfl, _, rfl, NextPc.target_skipWhen_bne .., s.changesOnlyPc_goTo _⟩
  · have hvariant (op : Nibble) : (formatXYN op x y n).toNat % 16 ≠ 0 := fun h =>
      hn (BitVec.eq_of_toNat_eq ((formatXYN_toNat_mod op x y n).symm.trans h))
    have hse := illegalWordsAreThoseListed (formatXYN 0x5 x y n)
    have hsne := illegalWordsAreThoseListed (formatXYN 0x9 x y n)
    exact ⟨hse.mpr (.inr (.inl ⟨formatXYN_toNat_div .., hvariant _⟩)),
      hsne.mpr (.inr (.inr (.inr (.inl ⟨formatXYN_toNat_div .., hvariant _⟩))))⟩

end Sys2Proof.Machine
end

section
/-! The family 42_alu.md: the register loads (R131, R133), the ALU without a flag (R132, R134 to R136), and `ADD` and `SUB` with
theirs (R137, R138). -/

namespace Sys2Proof.Machine

/-! ### What the two kinds of register write answer -/

/-- An instruction that writes `V[x]` alone: the register holds the value, and nothing but `PC` moves besides (R131 to R136). -/
theorem State.setV_goTo_spec (s : State) (x : Reg) (b : Byte) :
    ((s.setV x b).goTo .advance).getV x = b ∧ ((s.setV x b).goTo .advance).pc = s.pc + 2 ∧
      ChangesOnly (fun p => p = .reg x) s ((s.setV x b).goTo .advance) :=
  ⟨(s.getV_setV x b x).trans (if_pos rfl), rfl, ((ChangesOnly.refl (fun p => p = .reg x) s).setV rfl b).goTo _⟩

/-- An instruction that writes a result and then the flag: `VF` holds the flag whatever `x` is, and `V[x]` the result when it is
another register (R10, R130). -/
theorem State.setVThenFlag_goTo_spec (s : State) (x : Reg) (result flag : Byte) :
    (x ≠ vf → ((s.setVThenFlag x result flag).goTo .advance).getV x = result) ∧
      ((s.setVThenFlag x result flag).goTo .advance).getV vf = flag ∧
      ((s.setVThenFlag x result flag).goTo .advance).pc = s.pc + 2 ∧
      ChangesOnly (fun p => p = .reg x ∨ p = .reg vf) s ((s.setVThenFlag x result flag).goTo .advance) := by
  refine ⟨fun hx => ?_, ?_, rfl, (((ChangesOnly.refl _ s).setV (.inl rfl) result).setV (.inr rfl) flag).goTo _⟩
  · rw [State.goTo_getV, State.getV_setVThenFlag, if_neg hx, if_pos rfl]
  · rw [State.goTo_getV, State.getV_setVThenFlag, if_pos rfl]

/-! ### The difference as one residue -/

theorem diffByte_toNat_mod (a b : Byte) : (diffByte a b).toNat = (256 + a.toNat - b.toNat) % 256 := by
  have := a.isLt
  have := b.isLt
  rw [diffByte_toNat]
  split <;> omega

/-! ### The obligations -/

/-- Settles O17: both write `V[x]` alone. -/
theorem registerLoads : Obligations.RegisterLoads := fun s x y kk =>
  ⟨⟨decodeWord_encode (i := .ldImm x kk) rfl, _, rfl, s.setV_goTo_spec x kk⟩,
    ⟨decodeWord_encode (i := .ldReg x y) rfl, _, rfl, s.setV_goTo_spec x (s.getV y)⟩⟩

/-- Settles O18: the 9-bit sum's low byte goes to `V[x]` alone. -/
theorem addImmediateWrapsWithoutFlag : Obligations.AddImmediateWrapsWithoutFlag := by
  intro s x kk
  obtain ⟨hresult, hrest⟩ := s.setV_goTo_spec x (sumByte (s.getV x) kk)
  exact ⟨decodeWord_encode (i := .addImm x kk) rfl, _, rfl,
    (congrArg BitVec.toNat hresult).trans (sumByte_toNat (s.getV x) kk), hrest⟩

/-- Settles O19: each writes `V[x]` alone, and its operation on bytes is the one on their bits. -/
theorem bitwiseInstructions : Obligations.BitwiseInstructions := by
  intro s x y
  refine ⟨?_, ?_, ?_⟩
  · obtain ⟨hresult, hrest⟩ := s.setV_goTo_spec x (s.getV x ||| s.getV y)
    exact ⟨decodeWord_encode (i := .orReg x y) rfl, _, rfl, fun k _ => by rw [hresult, BitVec.getLsbD_or], hrest⟩
  · obtain ⟨hresult, hrest⟩ := s.setV_goTo_spec x (s.getV x &&& s.getV y)
    exact ⟨decodeWord_encode (i := .andReg x y) rfl, _, rfl, fun k _ => by rw [hresult, BitVec.getLsbD_and], hrest⟩
  · obtain ⟨hresult, hrest⟩ := s.setV_goTo_spec x (s.getV x ^^^ s.getV y)
    exact ⟨decodeWord_encode (i := .xorReg x y) rfl, _, rfl, fun k _ => by rw [hresult, BitVec.getLsbD_xor], hrest⟩

/-- Settles O20: the sum is written before the carry, so for `x = 15` the carry remains; both are those of the 9-bit sum. -/
theorem addRegistersSetsCarry : Obligations.AddRegistersSetsCarry := by
  intro s x y
  obtain ⟨hresult, hflag, hrest⟩ := s.setVThenFlag_goTo_spec x (sumByte (s.getV x) (s.getV y))
    (carryFlag (s.getV x) (s.getV y))
  exact ⟨decodeWord_encode (i := .addReg x y) rfl, _, rfl,
    fun hx => (congrArg BitVec.toNat (hresult hx)).trans (sumByte_toNat ..), hflag.trans (carryFlag_eq ..), hrest⟩

/-- Settles O21: the difference is written before the flag, so for `x = 15` the flag remains. -/
theorem subtractSetsNoBorrow : Obligations.SubtractSetsNoBorrow := by
  intro s x y
  obtain ⟨hresult, hflag, hrest⟩ := s.setVThenFlag_goTo_spec x (diffByte (s.getV x) (s.getV y))
    (noBorrowFlag (s.getV x) (s.getV y))
  exact ⟨decodeWord_encode (i := .subReg x y) rfl, _, rfl,
    fun hx => (congrArg BitVec.toNat (hresult hx)).trans (diffByte_toNat_mod ..), hflag.trans (noBorrowFlag_eq ..), hrest⟩

end Sys2Proof.Machine
end

section
/-! The family 43_index_memory.md: loading `I` (R151), the decimal digits (R154), and the block transfers between the registers and
memory (R156, R157). -/

namespace Sys2Proof.Machine

/-! ### Frames -/

section
variable {written : Part → Prop} {s t : State}

theorem ChangesOnly.setI (h : ChangesOnly written s t) (hindex : written .index) (a : Word) :
    ChangesOnly written s (t.setI a) := by
  refine ⟨h.1, fun p hp => ?_⟩
  cases p with
  | index => exact (hp hindex).elim
  | _ => exact h.2 _ hp

/-- A byte store changes what is read at the addresses that reach the byte stored to (R52, R53). -/
theorem ChangesOnly.writeByte (h : ChangesOnly written s t) {a : Word}
    (ha : ∀ c, portAddr c = portAddr a → written (.byte c)) (b : Byte) : ChangesOnly written s (t.writeByte a b) := by
  refine ⟨h.1, fun p hp => ?_⟩
  cases p with
  | byte c =>
    have hne : portAddr c ≠ portAddr a := fun e => hp (ha c e)
    exact (t.readByte_writeByte a b c).trans ((if_neg hne).trans (h.2 _ hp))
  | _ => exact h.2 _ hp

end

/-- The address of offset `k` is in the block of `n` bytes (R54). -/
theorem Part.inBlock_byte {s : State} {n k : Nat} (hk : k < n) (c : Word) (hc : portAddr c = portAddr (s.indexAddr k)) :
    Part.inBlock s n (.byte c) :=
  ⟨k, hk, hc⟩

/-- A block store of at most `n` registers changes the block of `n` bytes (R156). -/
theorem State.changesOnly_storeBlock (s : State) {m n : Nat} (hm : m ≤ n) :
    ChangesOnly (Part.inBlock s n) s (s.storeBlock m) := by
  induction m with
  | zero => exact ChangesOnly.refl _ s
  | succ m ih =>
    rw [State.storeBlock_succ, State.storeBlock_indexAddr]
    exact (ih (Nat.le_of_succ_le hm)).writeByte (Part.inBlock_byte hm) _

/-- Storing the digits changes the block of three bytes (R154). -/
theorem State.changesOnly_storeDigits (s : State) (b : Byte) : ChangesOnly (Part.inBlock s 3) s (s.storeDigits b) :=
  (((ChangesOnly.refl _ s).writeByte (Part.inBlock_byte (k := 0) (by decide)) (hundreds b)).writeByte
    (Part.inBlock_byte (k := 1) (by decide)) (tens b)).writeByte (Part.inBlock_byte (k := 2) (by decide)) (units b)

/-- A block load changes the registers it names (R157). -/
theorem State.changesOnly_loadBlock {written : Part → Prop} (s : State) {n : Nat}
    (hwritten : ∀ k < n, written (.reg (blockReg k))) : ChangesOnly written s (s.loadBlock n) := by
  induction n with
  | zero => exact ChangesOnly.refl _ s
  | succ n ih =>
    rw [State.loadBlock_succ]
    exact (ih fun k hk => hwritten k (Nat.lt_succ_of_lt hk)).setV (hwritten n (Nat.lt_succ_self n)) _

/-! ### The digits, each at its own byte -/

theorem State.indexAddr_zero (s : State) : s.indexAddr 0 = s.i := BitVec.add_zero s.i

/-- The three places are different bytes, so no later digit overwrites an earlier one (R154). -/
theorem State.storeDigits_digits (s : State) (b : Byte) :
    (s.storeDigits b).readByte (s.indexAddr 0) = hundreds b ∧ (s.storeDigits b).readByte (s.indexAddr 1) = tens b ∧
      (s.storeDigits b).readByte (s.indexAddr 2) = units b := by
  have hne {j k : Nat} (hjk : j < k) (hk : k < 3) : portAddr (s.indexAddr j) ≠ portAddr (s.indexAddr k) := fun e =>
    hjk.ne (portAddr_indexAddr_inj s (by omega) (by omega) e)
  have h01 := hne (j := 0) (k := 1) (by decide) (by decide)
  have h02 := hne (j := 0) (k := 2) (by decide) (by decide)
  have h12 := hne (j := 1) (k := 2) (by decide) (by decide)
  refine ⟨?_, ?_, ?_⟩
  · rw [State.readByte_storeDigits, if_neg h02, if_neg h01, if_pos rfl]
  · rw [State.readByte_storeDigits, if_neg h12, if_pos rfl]
  · rw [State.readByte_storeDigits, if_pos rfl]

/-! ### The obligations -/

/-- Settles O25: it writes the zero-extended address to `I` alone. -/
theorem loadIndexLoadsTheAddress : Obligations.LoadIndexLoadsTheAddress := fun s addr =>
  ⟨decodeWord_encode (i := .ldI addr) rfl, _, rfl, addrWord_toNat addr, rfl,
    ((ChangesOnly.refl (fun p => p = .index) s).setI rfl _).goTo _⟩

/-- Settles O27: each digit is still there after the later ones are stored. -/
theorem bcdStoresThreeDigits : Obligations.BcdStoresThreeDigits := by
  intro s x
  obtain ⟨hhundreds, htens, hunits⟩ := s.storeDigits_digits (s.getV x)
  rw [State.indexAddr_zero] at hhundreds
  exact ⟨decodeWord_encode (i := .ldBcd x) rfl, _, rfl, (congrArg BitVec.toNat hhundreds).trans (hundreds_toNat _),
    (congrArg BitVec.toNat htens).trans (tens_toNat _), (congrArg BitVec.toNat hunits).trans (units_toNat _), rfl,
    (s.changesOnly_storeDigits _).goTo _⟩

/-- Settles O28: at most 16 successive bytes are different ones, so each register is still there after the later ones are stored. -/
theorem storeRegistersStoresTheBlock : Obligations.StoreRegistersStoresTheBlock := by
  intro s x
  refine ⟨decodeWord_encode (i := .storeRegs x) rfl, (s.storeBlock (x.val + 1)).goTo .advance, rfl, fun r hr => ?_, ?_,
    (s.changesOnly_storeBlock le_rfl).goTo _⟩
  · have hbyte := s.readByte_storeBlock (x.val + 1) r.val (s.indexAddr r.val) x.isLt (Nat.lt_succ_of_le hr) rfl
    rwa [blockReg_of_val] at hbyte
  · rw [State.goTo_pc, State.storeBlock_pc, NextPc.target_advance]

/-- Settles O29: a load leaves memory and `I` alone, so every register is loaded from the memory the instruction started with. -/
theorem loadRegistersLoadsTheBlock : Obligations.LoadRegistersLoadsTheBlock := by
  intro s x
  refine ⟨decodeWord_encode (i := .loadRegs x) rfl, (s.loadBlock (x.val + 1)).goTo .advance, rfl, fun r hr => ?_, ?_,
    (s.changesOnly_loadBlock fun k hk => ⟨blockReg k, ?_, rfl⟩).goTo _⟩
  · exact (s.getV_loadBlock (x.val + 1) r x.isLt).trans (if_pos (Nat.lt_succ_of_le hr))
  · rw [State.goTo_pc, State.loadBlock_pc, NextPc.target_advance]
  · rw [Fin.le_def, blockReg_val (hk.trans_le x.isLt)]
    exact Nat.le_of_lt_succ hk

end Sys2Proof.Machine
end

section
/-! The family 44_keypad_timer_random.md: the instructions that move the timers (R173, R175, R176). -/

namespace Sys2Proof.Machine

/-! ### Frames -/

section
variable {written : Part → Prop} {s t : State}

theorem ChangesOnly.setDt (h : ChangesOnly written s t) (hdelay : written .delayTimer) (b : Byte) :
    ChangesOnly written s (t.setDt b) := by
  refine ⟨h.1, fun p hp => ?_⟩
  cases p with
  | delayTimer => exact (hp hdelay).elim
  | _ => exact h.2 _ hp

theorem ChangesOnly.setSt (h : ChangesOnly written s t) (hsound : written .soundTimer) (b : Byte) :
    ChangesOnly written s (t.setSt b) := by
  refine ⟨h.1, fun p hp => ?_⟩
  cases p with
  | soundTimer => exact (hp hsound).elim
  | _ => exact h.2 _ hp

end

/-! ### The obligation -/

/-- Settles O38: each writes its one destination, a register or a timer, and the multiplexer moves `PC` on. -/
theorem timerInstructions : Obligations.TimerInstructions := by
  intro s x
  refine ⟨?_, ?_, ?_⟩
  · exact ⟨decodeWord_encode (i := .ldFromDt x) rfl, _, rfl, s.setV_goTo_spec x s.dt⟩
  · exact ⟨decodeWord_encode (i := .ldToDt x) rfl, _, rfl, rfl, rfl,
      ((ChangesOnly.refl (fun p => p = .delayTimer) s).setDt rfl _).goTo _⟩
  · exact ⟨decodeWord_encode (i := .ldToSt x) rfl, _, rfl, rfl, rfl,
      ((ChangesOnly.refl (fun p => p = .soundTimer) s).setSt rfl _).goTo _⟩

end Sys2Proof.Machine
end

section
/-! The family 70_reset_and_hazards.md: an empty machine's first step (R231). -/

namespace Sys2Proof.Machine

/-! ### Rules for a word that is no instruction -/

/-- The error is the decoder's only one, so the premise need not say which it is. -/
theorem State.runStep_of_decodeWord_error {s : State} {e : DecodeError} (hfault : s.fault = .none)
    (hwait : s.wait = .running) (hdecode : decodeWord s.fetch = .error e) :
    s.runStep = .next (s.raise (.unknownInstruction s.pc s.fetch)) := by
  simp only [State.runStep, hfault, hwait, hdecode, State.takeFault_next]

/-! ### Memory after reset -/

/-- Above the glyphs memory is zero after reset (R36). -/
theorem State.readByte_resetWith_of_glyphBytes_le (rom : Vector Byte Config.glyphBytes) (capacity : Nat) {a : Word}
    (h : Config.glyphBytes ≤ portAddr a) : (State.resetWith rom capacity).readByte a = 0 := by
  rw [State.readByte_resetWith, Memory.unlisted, dif_neg (Nat.not_lt.mpr h)]

/-- The reset `PC` is above the glyphs, whatever they are. -/
theorem State.fetch_resetWith (rom : Vector Byte Config.glyphBytes) (capacity : Nat) :
    (State.resetWith rom capacity).fetch = 0 := by
  have hhigh : (State.resetWith rom capacity).readByte 0x200 = 0 :=
    State.readByte_resetWith_of_glyphBytes_le rom capacity (by decide)
  have hlow : (State.resetWith rom capacity).readByte 0x201 = 0 :=
    State.readByte_resetWith_of_glyphBytes_le rom capacity (by decide)
  exact congrArg₂ wordOfBytes hhigh hlow

/-! ### The obligation -/

/-- Settles O47: the word fetched at the reset `PC` is 0x0000, which the decoder refuses; the step's inputs are not looked at. -/
theorem emptyMachineFaultsAtOnce : Obligations.EmptyMachineFaultsAtOnce := by
  intro key rnd
  have hfetch : State.reset.fetch = 0 := State.fetch_resetWith defaultGlyphRom Config.defaultStackCapacity
  have hdecode : decodeWord State.reset.fetch = .error (.unknownInstruction 0) := by rw [hfetch]; rfl
  exact ⟨_, (step_of_pending_step rfl).trans (State.runStep_of_decodeWord_error rfl rfl hdecode),
    congrArg (FaultLatch.unknownInstruction 0x200) hfetch⟩

end Sys2Proof.Machine
end

section
/-! What one instruction, one step and one event leave alone: the frame of every instruction (R20 with the writers of R22 to R34
and R65), of the wait for a key (R174) and of the events (R40 to R43). -/

namespace Sys2Proof.Machine

/-! ### Frames one after another -/

theorem Part.same_trans {p : Part} {s t u : State} (hst : p.same s t) (htu : p.same t u) : p.same s u := by
  cases p with
  | stack => exact ⟨htu.1.trans hst.1, htu.2.trans hst.2⟩
  | _ => exact Eq.trans htu hst

section
variable {written : Part → Prop} {s t u : State}

theorem KeepsPartsBut.trans (hst : KeepsPartsBut written s t) (htu : KeepsPartsBut written t u) :
    KeepsPartsBut written s u :=
  fun p hp => Part.same_trans (hst p hp) (htu p hp)

theorem ChangesOnly.trans (hst : ChangesOnly written s t) (htu : ChangesOnly written t u) :
    ChangesOnly written s u := by
  obtain ⟨⟨hrom, hload, hpending, hkey, hrnd, hdraws⟩, hparts⟩ := hst
  obtain ⟨⟨hrom', hload', hpending', hkey', hrnd', hdraws'⟩, hparts'⟩ := htu
  exact ⟨⟨hrom'.trans hrom, hload'.trans hload, hpending'.trans hpending, hkey'.trans hkey, hrnd'.trans hrnd,
    hdraws'.trans hdraws⟩, hparts.trans hparts'⟩

/-! ### Frames of the remaining updates -/

theorem ChangesOnly.setWait (h : ChangesOnly written s t) (hwait : written .wait) (w : Wait) :
    ChangesOnly written s (t.setWait w) := by
  refine ⟨h.1, fun p hp => ?_⟩
  cases p with
  | wait => exact (hp hwait).elim
  | _ => exact h.2 _ hp

theorem ChangesOnly.raise (h : ChangesOnly written s t) (hfault : written .fault) (f : FaultLatch) :
    ChangesOnly written s (t.raise f) := by
  refine ⟨h.1, fun p hp => ?_⟩
  cases p with
  | fault => exact (hp hfault).elim
  | _ => exact h.2 _ hp

/-- Completing an instruction moves `PC` besides what its writes did (R42 step 6). -/
theorem ChangesOnly.finish (h : ChangesOnly written s u) {n : NextPc} (hfinish : u.finish n = .next t) :
    ChangesOnly written s t := by
  obtain rfl : u.goTo n = t := Host.Outcome.next.inj hfinish
  exact h.goTo n

end

/-- Taking an event off changes no part of the core (R40). -/
theorem State.keepsParts_consume (written : Part → Prop) (s : State) (rest : List Event) :
    KeepsPartsBut written s (s.consume rest) := fun p _ => by
  cases p with
  | stack => exact ⟨rfl, rfl⟩
  | _ => rfl

/-- Supplying the inputs of a pending step changes no part of the core (R42). -/
theorem State.keepsParts_supply (written : Part → Prop) (s : State) (rest : List Event) (key : Option Nibble)
    (rnd : Byte) : KeepsPartsBut written s ((s.consume rest).supply key rnd) := fun p _ => by
  cases p with
  | stack => exact ⟨rfl, rfl⟩
  | _ => rfl

theorem State.changesOnly_ticks (s : State) (n : Nat) :
    ChangesOnly (fun p => p = .delayTimer ∨ p = .soundTimer) s (s.ticks n) :=
  ((ChangesOnly.refl _ s).setDt (.inl rfl) (timerAfter s.dt n)).setSt (.inr rfl) (timerAfter s.st n)

theorem State.keepsPartsBut_loadEvent (s : State) (bytes : List Byte) :
    KeepsPartsBut (fun p => ∃ a, p = .byte a) s (s.loadEvent bytes) := fun p hp => by
  cases p with
  | byte a => exact (hp ⟨a, rfl⟩).elim
  | stack => exact ⟨rfl, rfl⟩
  | _ => rfl

/-! ### The wait for a key -/

/-- Without a key the wait goes on (R174). -/
theorem State.awaitKey_of_key_none {s : State} (hkey : s.key = none) (x : Reg) : s.awaitKey x = s := by
  simp only [State.awaitKey, hkey]

/-- A key goes into the awaited register and ends the wait (R174). -/
theorem State.awaitKey_of_key_some {s : State} {k : Nibble} (hkey : s.key = some k) (x : Reg) :
    s.awaitKey x = (s.setV x (keyByte k)).setWait .running := by
  simp only [State.awaitKey, hkey]

theorem State.changesOnly_awaitKey (s : State) (x : Reg) :
    ChangesOnly (fun p => p = .reg x ∨ p = .wait) s (s.awaitKey x) := by
  cases hkey : s.key with
  | none =>
    rw [State.awaitKey_of_key_none hkey]
    exact ChangesOnly.refl _ s
  | some k =>
    rw [State.awaitKey_of_key_some hkey]
    exact ((ChangesOnly.refl _ s).setV (.inl rfl) _).setWait (.inr rfl) _

/-! ### The frame of every instruction -/

theorem changesOnly_execCall {addr : Addr} {s t : State} (h : execCall addr s = .next t) :
    ChangesOnly (fun p => p = .stack ∨ p = .fault) s t := by
  rcases execCall_cases addr s with ⟨-, he⟩ | ⟨-, he⟩ | ⟨-, he⟩ <;> rw [he] at h <;> cases h
  · exact ((ChangesOnly.refl _ s).setStack (.inl rfl) _ _).goTo _
  · exact (ChangesOnly.refl _ s).raise (.inr rfl) _

theorem changesOnly_execRet {s t : State} (h : execRet s = .next t) :
    ChangesOnly (fun p => p = .stack ∨ p = .fault) s t := by
  rcases execRet_cases s with ⟨-, he⟩ | ⟨-, -, _, -, he⟩ | ⟨-, he⟩ <;> rw [he] at h <;> cases h
  · exact (ChangesOnly.refl _ s).raise (.inr rfl) _
  · exact ((ChangesOnly.refl _ s).setStack (.inl rfl) _ _).goTo _

/-- Settles O51: each instruction is a chain of named updates, and each update writes a part its rule names. -/
theorem instructionsChangeOnlyWhatTheirRulesName : Obligations.InstructionsChangeOnlyWhatTheirRulesName := by
  intro i s t h
  have hsame : ChangesOnly (i.writes s) s s := ChangesOnly.refl _ s
  cases i with
  | call addr => exact changesOnly_execCall h
  | ret => exact changesOnly_execRet h
  | cls => exact (hsame.setFb rfl _).finish h
  | drw x y n => exact ((hsame.setFb (.inl rfl) _).setV (.inr rfl) _).finish h
  | ldImm | addImm | ldReg | orReg | andReg | xorReg | rnd | ldFromDt => exact (hsame.setV rfl _).finish h
  | addReg | subReg | shr | subnReg | shl => exact ((hsame.setV (.inl rfl) _).setV (.inr rfl) _).finish h
  | ldI | addI | ldGlyph => exact (hsame.setI rfl _).finish h
  | ldKey x => exact (hsame.setWait rfl _).finish h
  | ldToDt x => exact (hsame.setDt rfl _).finish h
  | ldToSt x => exact (hsame.setSt rfl _).finish h
  | ldBcd x => exact (s.changesOnly_storeDigits _).finish h
  | storeRegs x => exact (s.changesOnly_storeBlock le_rfl).finish h
  | loadRegs x =>
    obtain ⟨-, t', he, -, -, hkeeps⟩ := loadRegistersLoadsTheBlock s x
    obtain rfl : t' = t := Host.Outcome.next.inj (he.symm.trans h)
    exact hkeeps
  | jp | jpV0 | seImm | sneImm | seReg | sneReg | skp | sknp => exact hsame.finish h

/-! ### Fatal errors, and a call with its return -/

/-- What an instruction that answers a next state can do to `FAULT`, the shape of the stack and the form of memory. -/
theorem exec_next_cases {i : Instr} {s t : State} (h : exec i s = .next t) :
    (t.fault = s.fault ∧ t.stackCapacity = s.stackCapacity ∧ (t.sp ≤ t.stackCapacity ∨ t.sp = s.sp) ∧
      (Memory.wf s.glyphRom s.mem → Memory.wf s.glyphRom t.mem)) ∨
    (∃ addr, i = .call addr ∧ s.sp = s.stackCapacity ∧ t = s.raise .stackOverflow) ∨
    (i = .ret ∧ s.sp = 0 ∧ t = s.raise .stackUnderflow) := by
  rcases exec_cases i s with ⟨u, n, he, -, hfault, hcapacity, hsp, -, -, -, hmem⟩ | ⟨addr, hi, hfull, he⟩ |
    ⟨hi, hempty, he⟩ | ⟨-, he⟩ <;> rw [he] at h <;> cases h
  · exact .inl ⟨hfault, hcapacity, hsp, hmem⟩
  · exact .inr (.inl ⟨addr, hi, hfull, rfl⟩)
  · exact .inr (.inr ⟨hi, hempty, rfl⟩)

theorem stackCapacity_exec {i : Instr} {s t : State} (h : exec i s = .next t) : t.stackCapacity = s.stackCapacity := by
  rcases exec_next_cases h with ⟨-, hcapacity, -, -⟩ | ⟨_, -, -, rfl⟩ | ⟨-, -, rfl⟩
  · exact hcapacity
  · rfl
  · rfl

/-- Settles O44: an instruction that completes leaves `FAULT` alone, and `CALL` and `RET` raise by writing `FAULT` and nothing
else. -/
theorem fatalErrorsArePrecise : Obligations.FatalErrorsArePrecise := by
  intro i s t hclear h hraised
  rcases exec_next_cases h with ⟨hfault, -⟩ | ⟨addr, hi, hfull, rfl⟩ | ⟨hi, hempty, rfl⟩
  · exact absurd (hfault.trans hclear) hraised
  · exact ⟨rfl, .inl ⟨addr, hi, hfull, rfl⟩⟩
  · exact ⟨rfl, .inr ⟨hi, hempty, rfl⟩⟩

/-- Settles O15: the call leaves the address of the next instruction in the slot that the return pops (R120). -/
theorem returnUndoesCall : Obligations.ReturnUndoesCall := by
  intro s t addr hroom hcall
  have hcapacity := stackCapacity_exec hcall
  obtain ⟨-, -, hpush⟩ := callPushesOrOverflows s addr
  obtain ⟨t', hcall', -, hsp, hslot, hothers, hkeeps⟩ := hpush hroom
  obtain rfl : t = t' := Host.Outcome.next.inj (hcall.symm.trans hcall')
  obtain ⟨-, hrets⟩ := retPopsOrUnderflows
  obtain ⟨-, hpop⟩ := hrets t
  obtain ⟨u, hret, hpc, husp, hstack, hkeeps'⟩ := hpop (by omega) (by omega)
  have hback : t.sp - 1 = s.sp := by omega
  rw [hback, hslot] at hpc
  exact ⟨u, hret, (Option.some.inj hpc).symm, husp.trans hback, fun j hj => by rw [hstack, hothers j hj],
    hkeeps.trans hkeeps'⟩

end Sys2Proof.Machine
end

section
/-! The invariants: what holds at reset and is kept by every event (R26, R29, R34, R41, R204, R206), what no event changes (R7),
and which events have a result (R41, R59, R200). -/

namespace Sys2Proof.Machine

/-! ### What a step answers -/

/-- A state that a step of `s` executes in: the next event is taken off, the inputs are supplied, and free ticks may have come
(R40, R42). -/
def State.supplied (s : State) (dt st : Byte) (key : Option Nibble) (rnd : Byte) (draws : Nat) : State :=
  { s with dt := dt, st := st, pending := s.pending.tail, canLoad := false, key := key, rnd := rnd, draws := draws }

theorem State.consume_supply_eq_supplied {s : State} {e : Event} {rest : List Event} (hpending : s.pending = e :: rest)
    (key : Option Nibble) (rnd : Byte) : (s.consume rest).supply key rnd = s.supplied s.dt s.st key rnd s.draws := by
  rw [State.supplied, hpending]
  rfl

theorem State.supplyFree_eq_supplied {s : State} (hpending : s.pending = []) :
    s.supplyFree = s.supplied (timerAfter s.dt (Config.freeTicks s.draws)) (timerAfter s.st (Config.freeTicks s.draws))
      (Config.freeKey s.draws) (Config.freeRnd s.draws) (s.draws + 1) := by
  rw [State.supplied, hpending, List.tail_nil, ← hpending]
  rfl

/-- The events that have a next state, with the state each answers (R40 to R43). -/
theorem step_next_cases {s t : State} (h : step s = .next t) :
    (∃ rest, s.pending = .reset :: rest ∧ t = (s.consume rest).resetEvent) ∨
    (∃ bytes rest, s.pending = .load bytes :: rest ∧ s.canLoad = true ∧ t = (s.consume rest).loadEvent bytes) ∨
    (∃ rest, s.pending = .tick :: rest ∧ t = (s.consume rest).tick) ∨
    ((s.pending = [] ∨ ∃ key rnd rest, s.pending = .step key rnd :: rest) ∧
      ∃ dt st key rnd draws, (s.supplied dt st key rnd draws).runStep = .next t) := by
  rcases step_cases s with ⟨hp, he⟩ | ⟨rest, hp, he⟩ | ⟨bytes, rest, hp, hopen, he⟩ | ⟨_, _, -, -, he⟩ |
    ⟨key, rnd, rest, hp, he⟩ | ⟨rest, hp, he⟩ <;> rw [he] at h
  · rw [State.supplyFree_eq_supplied hp] at h
    exact .inr (.inr (.inr ⟨.inl hp, _, _, _, _, _, h⟩))
  · exact .inl ⟨rest, hp, (Host.Outcome.next.inj h).symm⟩
  · exact .inr (.inl ⟨bytes, rest, hp, hopen, (Host.Outcome.next.inj h).symm⟩)
  · cases h
  · rw [State.consume_supply_eq_supplied hp] at h
    exact .inr (.inr (.inr ⟨.inr ⟨key, rnd, rest, hp⟩, _, _, _, _, _, h⟩))
  · exact .inr (.inr (.inl ⟨rest, hp, (Host.Outcome.next.inj h).symm⟩))

/-- What a step answers once its inputs are supplied (R42). -/
theorem State.runStep_next_cases {s t : State} (h : s.runStep = .next t) :
    (s.fault ≠ .none ∧ t = s) ∨
    (s.fault = .none ∧ ∃ x, s.wait = .awaitingKey x ∧ t = s.awaitKey x) ∨
    (s.fault = .none ∧ s.wait = .running ∧ ∃ i, decodeWord s.fetch = .ok i ∧ exec i s = .next t) ∨
    (s.fault = .none ∧ s.wait = .running ∧ decodeWord s.fetch = .error (.unknownInstruction s.fetch) ∧
      t = s.raise (.unknownInstruction s.pc s.fetch)) := by
  rcases s.runStep_cases with ⟨hf, he⟩ | ⟨hf, x, hw, he⟩ | ⟨hf, hw, i, hd, he⟩ | ⟨hf, hw, ⟨e, hd⟩, he⟩ <;> rw [he] at h
  · exact .inl ⟨hf, (Host.Outcome.next.inj h).symm⟩
  · exact .inr (.inl ⟨hf, x, hw, (Host.Outcome.next.inj h).symm⟩)
  · exact .inr (.inr (.inl ⟨hf, hw, i, hd, h⟩))
  · obtain rfl := decodeWord_error hd
    exact .inr (.inr (.inr ⟨hf, hw, hd, (Host.Outcome.next.inj h).symm⟩))

theorem stackCapacity_awaitKey (s : State) (x : Reg) : (s.awaitKey x).stackCapacity = s.stackCapacity := by
  obtain ⟨-, hkeeps⟩ := s.changesOnly_awaitKey x
  exact congrArg List.length (hkeeps .stack (by simp)).1

/-- A step changes none of the model's own fields once its inputs are supplied, and not the capacity of the stack. -/
theorem State.runStep_keeps {s t : State} (h : s.runStep = .next t) :
    SameModelFields s t ∧ t.stackCapacity = s.stackCapacity := by
  rcases State.runStep_next_cases h with ⟨-, rfl⟩ | ⟨-, x, -, rfl⟩ | ⟨-, -, i, -, he⟩ | ⟨-, -, -, rfl⟩
  · exact ⟨(ChangesOnly.refl (fun _ => False) t).1, rfl⟩
  · exact ⟨(s.changesOnly_awaitKey x).1, stackCapacity_awaitKey s x⟩
  · exact ⟨(instructionsChangeOnlyWhatTheirRulesName i s t he).1, stackCapacity_exec he⟩
  · exact ⟨((ChangesOnly.refl (fun p => p = .fault) s).raise rfl _).1, rfl⟩

/-! ### The shape of the state -/

theorem State.wf_exec {i : Instr} {s t : State} (hwf : s.wf) (h : exec i s = .next t) : t.wf := by
  obtain ⟨⟨hrom, -⟩, -⟩ := instructionsChangeOnlyWhatTheirRulesName i s t h
  obtain ⟨hmem, hsp, hpos⟩ := hwf
  rcases exec_next_cases h with ⟨-, hcapacity, hbound, hkeeps⟩ | ⟨_, -, -, rfl⟩ | ⟨-, -, rfl⟩
  · have hle : t.sp ≤ t.stackCapacity := hbound.elim id fun heq => by rwa [heq, hcapacity]
    exact ⟨hrom ▸ hkeeps hmem, hle, hcapacity ▸ hpos⟩
  · exact ⟨hmem, hsp, hpos⟩
  · exact ⟨hmem, hsp, hpos⟩

theorem State.wf_awaitKey {s : State} (hwf : s.wf) (x : Reg) : (s.awaitKey x).wf := by
  cases hkey : s.key with
  | none => rwa [State.awaitKey_of_key_none hkey]
  | some k =>
    rw [State.awaitKey_of_key_some hkey]
    exact hwf

theorem State.wf_runStep {s t : State} (hwf : s.wf) (h : s.runStep = .next t) : t.wf := by
  rcases State.runStep_next_cases h with ⟨-, rfl⟩ | ⟨-, x, -, rfl⟩ | ⟨-, -, i, -, he⟩ | ⟨-, -, -, rfl⟩
  · exact hwf
  · exact State.wf_awaitKey hwf x
  · exact State.wf_exec hwf he
  · exact hwf

theorem State.wf_loadEvent {s : State} (hwf : s.wf) (bytes : List Byte) : (s.loadEvent bytes).wf :=
  ⟨Memory.wf_copyFrom bytes Config.programBase hwf.1, hwf.2⟩

theorem State.wf_resetWith (rom : Vector Byte Config.glyphBytes) {capacity : Nat} (hpos : 0 < capacity) :
    (State.resetWith rom capacity).wf :=
  ⟨Memory.wf_nil rom, Nat.zero_le _, hpos.trans_eq List.length_replicate.symm⟩

/-- Settles O52: a reset starts from empty memory and an empty stack, a load copies by writes, a tick touches neither, and of the
instructions only the stores write memory and only `CALL` and `RET` move `SP`. -/
theorem stepKeepsWellFormedness : Obligations.StepKeepsWellFormedness := by
  intro s t hwf h
  rcases step_next_cases h with ⟨rest, -, rfl⟩ | ⟨bytes, rest, -, -, rfl⟩ | ⟨rest, -, rfl⟩ |
    ⟨-, dt, st, key, rnd, draws, hrun⟩
  · obtain ⟨-, -, hpos⟩ := hwf
    exact State.wf_resetWith s.glyphRom hpos
  · exact State.wf_loadEvent (s := s.consume rest) hwf bytes
  · exact hwf
  · exact State.wf_runStep (s := s.supplied dt st key rnd draws) hwf hrun

/-! ### The latch -/

/-- With the latch clear there is no cause to show. -/
theorem State.latched_of_fault_none {s : State} (hfault : s.fault = .none)
    (hwait : s.canLoad = true → s.wait = .running) : s.latched where
  fresh hopen := ⟨hfault, hwait hopen⟩
  notAwaiting hraised := absurd hfault hraised
  unknown _ _ h := by simp [hfault] at h
  overflow h := by simp [hfault] at h
  underflow h := by simp [hfault] at h

/-- The latch looks at `PC`, the word there and the stack; it stays truthful when the loading period closes. -/
theorem State.latched.congr {s t : State} (h : s.latched) (hopen : t.canLoad = true → s.canLoad = true)
    (hfault : t.fault = s.fault) (hwait : t.wait = s.wait) (hpc : t.pc = s.pc) (hfetch : t.fetch = s.fetch)
    (hsp : t.sp = s.sp) (hcapacity : t.stackCapacity = s.stackCapacity) : t.latched where
  fresh := by
    rw [hfault, hwait]
    exact fun ho => h.fresh (hopen ho)
  notAwaiting := by
    rw [hfault, hwait]
    exact h.notAwaiting
  unknown := by
    rw [hfault, hpc, hfetch]
    exact h.unknown
  overflow := by
    rw [hfault, hfetch, hsp, hcapacity]
    exact h.overflow
  underflow := by
    rw [hfault, hfetch, hsp]
    exact h.underflow

theorem State.latched_supplied {s : State} (h : s.latched) (dt st : Byte) (key : Option Nibble) (rnd : Byte)
    (draws : Nat) : (s.supplied dt st key rnd draws).latched :=
  h.congr (fun hopen => absurd hopen Bool.false_ne_true) rfl rfl rfl rfl rfl rfl

/-- Raising leaves the cause where the latch says it is (R204). -/
theorem State.latched_raise {s : State} {f : FaultLatch} (hclosed : s.canLoad = false) (hwait : s.wait = .running)
    (hunknown : ∀ pc w, f = .unknownInstruction pc w →
      pc = s.pc ∧ w = s.fetch ∧ decodeWord w = .error (.unknownInstruction w))
    (hoverflow : f = .stackOverflow → (∃ addr, decodeWord s.fetch = .ok (.call addr)) ∧ s.sp = s.stackCapacity)
    (hunderflow : f = .stackUnderflow → decodeWord s.fetch = .ok .ret ∧ s.sp = 0) : (s.raise f).latched where
  fresh hopen := absurd (hclosed.symm.trans hopen) Bool.false_ne_true
  notAwaiting _ := hwait
  unknown := hunknown
  overflow := hoverflow
  underflow := hunderflow

/-- An instruction that a running core fetched and executed leaves the latch clear, or sets it to the instruction's own error. -/
theorem State.latched_exec {i : Instr} {s t : State} (hclosed : s.canLoad = false) (hclear : s.fault = .none)
    (hwait : s.wait = .running) (hdecode : decodeWord s.fetch = .ok i) (h : exec i s = .next t) : t.latched := by
  obtain ⟨⟨-, hload, -⟩, -⟩ := instructionsChangeOnlyWhatTheirRulesName i s t h
  rcases exec_next_cases h with ⟨hfault, -⟩ | ⟨addr, rfl, hfull, rfl⟩ | ⟨rfl, hempty, rfl⟩
  · refine State.latched_of_fault_none (hfault.trans hclear) fun hopen => ?_
    simp [hload, hclosed] at hopen
  · exact State.latched_raise hclosed hwait nofun (fun _ => ⟨⟨addr, hdecode⟩, hfull⟩) nofun
  · exact State.latched_raise hclosed hwait nofun nofun fun _ => ⟨hdecode, hempty⟩

theorem State.latched_runStep {s t : State} (hlatched : s.latched) (hclosed : s.canLoad = false)
    (h : s.runStep = .next t) : t.latched := by
  rcases State.runStep_next_cases h with ⟨-, rfl⟩ | ⟨hclear, x, -, rfl⟩ | ⟨hclear, hwait, i, hdecode, he⟩ |
    ⟨-, hwait, hdecode, rfl⟩
  · exact hlatched
  · obtain ⟨⟨-, hload, -⟩, hkeeps⟩ := s.changesOnly_awaitKey x
    refine State.latched_of_fault_none ((hkeeps .fault (by simp)).trans hclear) fun hopen => ?_
    simp [hload, hclosed] at hopen
  · exact State.latched_exec hclosed hclear hwait hdecode he
  · refine State.latched_raise hclosed hwait (fun pc w heq => ?_) nofun nofun
    cases heq
    exact ⟨rfl, rfl, hdecode⟩

/-- Settles O53: a reset and a load leave the latch clear, a tick and a halted step leave the latch and all it tells of alone, and a
step of a running core sets it to the cause it met. -/
theorem stepKeepsTheLatchTruthful : Obligations.StepKeepsTheLatchTruthful := by
  intro s t hlatched h
  rcases step_next_cases h with ⟨rest, -, rfl⟩ | ⟨bytes, rest, -, hopen, rfl⟩ | ⟨rest, -, rfl⟩ |
    ⟨-, dt, st, key, rnd, draws, hrun⟩
  · exact State.latched_of_fault_none rfl fun _ => rfl
  · obtain ⟨hclear, hwait⟩ := hlatched.fresh hopen
    exact State.latched_of_fault_none hclear fun _ => hwait
  · exact hlatched.congr id rfl rfl rfl rfl rfl rfl
  · exact State.latched_runStep (State.latched_supplied hlatched dt st key rnd draws) rfl hrun

/-- Settles O54: at reset memory lists nothing, the stack is empty and the latch is clear. -/
theorem resetSatisfiesTheInvariants : Obligations.ResetSatisfiesTheInvariants := by
  have hreset : ∀ rom capacity, 0 < capacity →
      (State.resetWith rom capacity).wf ∧ (State.resetWith rom capacity).latched := fun rom _ hpos =>
    ⟨State.wf_resetWith rom hpos, State.latched_of_fault_none rfl fun _ => rfl⟩
  obtain ⟨hwf, hlatched⟩ := hreset defaultGlyphRom Config.defaultStackCapacity (by decide)
  exact ⟨hwf, hlatched, hreset⟩

/-! ### Progress -/

theorem exec_next_of_sp_le {s : State} (hsp : s.sp ≤ s.stackCapacity) (i : Instr) : ∃ t, exec i s = .next t := by
  rcases exec_cases i s with ⟨_, _, he, -⟩ | ⟨_, -, -, he⟩ | ⟨-, -, he⟩ | ⟨hout, -⟩
  · exact ⟨_, he⟩
  · exact ⟨_, he⟩
  · exact ⟨_, he⟩
  · exact absurd hsp hout.not_ge

theorem State.runStep_next_of_sp_le {s : State} (hsp : s.sp ≤ s.stackCapacity) : ∃ t, s.runStep = .next t := by
  rcases s.runStep_cases with ⟨-, he⟩ | ⟨-, _, -, he⟩ | ⟨-, -, i, -, he⟩ | ⟨-, -, -, he⟩
  · exact ⟨_, he⟩
  · exact ⟨_, he⟩
  · obtain ⟨t, ht⟩ := exec_next_of_sp_le hsp i
    exact ⟨t, he.trans ht⟩
  · exact ⟨_, he⟩

/-- Settles O55: only an `SP` above the capacity stops an instruction, and only a load outside its period is refused. -/
theorem wellFormedMachineNeverStops : Obligations.WellFormedMachineNeverStops := by
  intro s hwf
  obtain ⟨-, hsp, -⟩ := hwf
  rcases step_cases s with ⟨-, he⟩ | ⟨_, -, he⟩ | ⟨_, _, -, -, he⟩ | ⟨bytes, rest, hp, hclosed, he⟩ |
    ⟨key, rnd, rest, -, he⟩ | ⟨_, -, he⟩
  · rw [he]
    exact .inl (State.runStep_next_of_sp_le (s := s.supplyFree) hsp)
  · exact .inl ⟨_, he⟩
  · exact .inl ⟨_, he⟩
  · exact .inr ⟨hclosed, ⟨bytes, rest, hp⟩, he⟩
  · rw [he]
    exact .inl (State.runStep_next_of_sp_le (s := (s.consume rest).supply key rnd) hsp)
  · exact .inl ⟨_, he⟩

/-! ### The parameters, the pending events and the loading period -/

/-- Settles O56: reset takes its parameters from the state it resets, and no other event writes them; each event is taken off
before it is performed. -/
theorem stepKeepsTheParameters : Obligations.StepKeepsTheParameters := by
  intro s t h
  rcases step_next_cases h with ⟨rest, hp, rfl⟩ | ⟨_, rest, hp, -, rfl⟩ | ⟨rest, hp, rfl⟩ | ⟨-, _, _, _, _, _, hrun⟩
  · exact ⟨rfl, State.resetEvent_stackCapacity _, (congrArg List.tail hp).symm⟩
  · exact ⟨rfl, rfl, (congrArg List.tail hp).symm⟩
  · exact ⟨rfl, rfl, (congrArg List.tail hp).symm⟩
  · obtain ⟨⟨hrom, -, hpending, -⟩, hcapacity⟩ := State.runStep_keeps hrun
    exact ⟨hrom, hcapacity, hpending⟩

/-- Settles O49: reset opens the period, a load and a step close it, and a tick leaves it. -/
theorem loadingPeriod : Obligations.LoadingPeriod := by
  intro s t h
  rcases step_next_cases h with ⟨rest, hp, rfl⟩ | ⟨_, rest, hp, -, rfl⟩ | ⟨rest, hp, rfl⟩ | ⟨hp, _, _, _, _, _, hrun⟩
  · exact iff_of_true rfl (.inl ⟨rest, hp⟩)
  · simp [hp]
  · simp [hp]
  · obtain ⟨⟨-, hload, -⟩, -⟩ := State.runStep_keeps hrun
    have hclosed : t.canLoad = false := hload
    rcases hp with hp | ⟨_, _, _, hp⟩ <;> simp [hp, hclosed]

/-! ### The halted core -/

theorem State.runStep_of_fault {s : State} (hfault : s.fault ≠ .none) : s.runStep = .next s := by
  rcases s.runStep_cases with ⟨-, he⟩ | ⟨hclear, -⟩ | ⟨hclear, -⟩ | ⟨hclear, -⟩
  · exact he
  all_goals exact absurd hclear hfault

/-- Settles O45: a step of a halted core does nothing once its inputs are supplied; a load and a tick leave `FAULT` and `PC`
alone. -/
theorem onlyResetLeavesTheHaltedState : Obligations.OnlyResetLeavesTheHaltedState := by
  intro s t hfault h
  rcases step_next_cases h with ⟨rest, hp, rfl⟩ | ⟨_, rest, hp, -, rfl⟩ | ⟨rest, hp, rfl⟩ |
    ⟨-, dt, st, key, rnd, draws, hrun⟩
  · exact .inl ⟨⟨rest, hp⟩, rfl⟩
  · exact .inr ⟨rfl, rfl, fun ⟨_, _, _, hstep⟩ => by simp [hp] at hstep⟩
  · exact .inr ⟨rfl, rfl, fun ⟨_, _, _, hstep⟩ => by simp [hp] at hstep⟩
  · rw [State.runStep_of_fault (s := s.supplied dt st key rnd draws) hfault] at hrun
    cases hrun
    refine .inr ⟨rfl, rfl, fun ⟨key, rnd, rest, hp⟩ => ?_⟩
    rw [step_of_pending_step hp, State.runStep_of_fault (s := (s.consume rest).supply key rnd) hfault] at h
    rw [← Host.Outcome.next.inj h]
    exact s.keepsParts_supply _ rest key rnd

end Sys2Proof.Machine
end

section
/-! The inputs of a step (R42, R170, R174, R215) and the events `step`, `tick`, `reset` and `load` (R36, R41, R43, R201, R238),
with the timers between them (R28, R211, R218). -/

namespace Sys2Proof.Machine

/-! ### The inputs an instruction does not look at -/

/-- The same state with other inputs of the step (R42). -/
def State.withInputs (s : State) (key : Option Nibble) (rnd : Byte) : State := { s with key := key, rnd := rnd }

theorem State.storeBlock_withInputs (s : State) (key : Option Nibble) (rnd : Byte) (n : Nat) :
    (s.withInputs key rnd).storeBlock n = (s.storeBlock n).withInputs key rnd := by
  induction n with
  | zero => rfl
  | succ n ih =>
    rw [State.storeBlock_succ, ih, State.storeBlock_succ]
    rfl

theorem State.loadBlock_withInputs (s : State) (key : Option Nibble) (rnd : Byte) (n : Nat) :
    (s.withInputs key rnd).loadBlock n = (s.loadBlock n).withInputs key rnd := by
  induction n with
  | zero => rfl
  | succ n ih =>
    rw [State.loadBlock_succ, ih, State.loadBlock_succ]
    rfl

theorem execCall_of_sp_lt {addr : Addr} {s : State} (hroom : s.sp < s.stackCapacity) :
    execCall addr s = .next ((s.setStack (s.stack.set s.sp (s.pc + 2)) (s.sp + 1)).goTo (.setTo (addrWord addr))) := by
  rcases execCall_cases addr s with ⟨-, he⟩ | ⟨hfull, -⟩ | ⟨hout, -⟩
  · exact he
  · exact absurd hfull hroom.ne
  · exact absurd hroom hout.not_gt

theorem execRet_of_slot {s : State} {a : Word} (hpos : 0 < s.sp) (hslot : s.stack[s.sp - 1]? = some a) :
    execRet s = .next ((s.setStack s.stack (s.sp - 1)).goTo (.setTo a)) := by
  simp only [execRet, State.pop, if_neg hpos.ne', hslot, State.finish_next]

theorem execCall_withInputs {addr : Addr} {s t : State} (h : execCall addr s = .next t) (key : Option Nibble)
    (rnd : Byte) : execCall addr (s.withInputs key rnd) = .next (t.withInputs key rnd) := by
  rcases execCall_cases addr s with ⟨hroom, he⟩ | ⟨hfull, he⟩ | ⟨-, he⟩ <;> rw [he] at h <;> cases h
  · exact execCall_of_sp_lt (s := s.withInputs key rnd) hroom
  · obtain ⟨-, hraises, -⟩ := callPushesOrOverflows (s.withInputs key rnd) addr
    exact hraises hfull

theorem execRet_withInputs {s t : State} (h : execRet s = .next t) (key : Option Nibble) (rnd : Byte) :
    execRet (s.withInputs key rnd) = .next (t.withInputs key rnd) := by
  rcases execRet_cases s with ⟨hempty, he⟩ | ⟨hpos, -, a, hslot, he⟩ | ⟨-, he⟩ <;> rw [he] at h <;> cases h
  · obtain ⟨-, hrets⟩ := retPopsOrUnderflows
    obtain ⟨hraises, -⟩ := hrets (s.withInputs key rnd)
    exact hraises hempty
  · exact execRet_of_slot (s := s.withInputs key rnd) hpos hslot

/-- With other inputs an instruction that does not look at them does the same, and leaves them there: `RND` alone looks at the
random byte (R170), `SKP` and `SKNP` alone at the key (R171, R172, R174). -/
theorem exec_withInputs {i : Instr} {s t : State} {key : Option Nibble} {rnd : Byte} (h : exec i s = .next t)
    (hkey : key = s.key ∨ ∀ x, i ≠ .skp x ∧ i ≠ .sknp x) (hrnd : rnd = s.rnd ∨ ∀ x kk, i ≠ .rnd x kk) :
    exec i (s.withInputs key rnd) = .next (t.withInputs key rnd) := by
  cases i with
  | call addr => exact execCall_withInputs h key rnd
  | ret => exact execRet_withInputs h key rnd
  | storeRegs x =>
    obtain rfl := Host.Outcome.next.inj h
    exact congrArg (fun u => State.finish u .advance) (s.storeBlock_withInputs key rnd _)
  | loadRegs x =>
    obtain rfl := Host.Outcome.next.inj h
    exact congrArg (fun u => State.finish u .advance) (s.loadBlock_withInputs key rnd _)
  | rnd x kk =>
    obtain rfl : rnd = s.rnd := hrnd.resolve_right fun hne => hne x kk rfl
    obtain rfl := Host.Outcome.next.inj h
    rfl
  | skp x | sknp x =>
    obtain rfl : key = s.key := hkey.resolve_right fun hne => by simpa using hne x
    obtain rfl := Host.Outcome.next.inj h
    rfl
  | _ =>
    obtain rfl := Host.Outcome.next.inj h
    rfl

/-- Settles O34: the state differs in the random byte alone, and the key is the one `t` still holds. -/
theorem onlyRndSeesTheRandomByte : Obligations.OnlyRndSeesTheRandomByte := by
  intro i s t rnd hi h
  obtain ⟨⟨-, -, -, hkey, -⟩, -⟩ := instructionsChangeOnlyWhatTheirRulesName i s t h
  have hinputs : t.withInputs s.key rnd = { t with rnd := rnd } := congrArg (t.withInputs · rnd) hkey.symm
  rw [← hinputs]
  exact exec_withInputs h (.inl rfl) (.inr hi)

/-- Settles O35: the state differs in the key alone, and the random byte is the one `t` still holds. -/
theorem onlyKeySkipsSeeTheKey : Obligations.OnlyKeySkipsSeeTheKey := by
  intro i s t key hi h
  obtain ⟨⟨-, -, -, -, hrnd, -⟩, -⟩ := instructionsChangeOnlyWhatTheirRulesName i s t h
  have hinputs : t.withInputs key s.rnd = { t with key := key } := congrArg (t.withInputs key ·) hrnd.symm
  rw [← hinputs]
  exact exec_withInputs h (.inr hi) (.inl rfl)

/-! ### The instructions that look at them -/

/-- Settles O33: the masked byte goes to `V[x]` alone, and masking bytes is masking their bits. -/
theorem rndMasksTheRandomByte : Obligations.RndMasksTheRandomByte := by
  intro s x kk
  obtain ⟨hresult, hrest⟩ := s.setV_goTo_spec x (s.rnd &&& kk)
  exact ⟨decodeWord_encode (i := .rnd x kk) rfl, _, rfl, fun k _ => by rw [hresult, BitVec.getLsbD_and], hrest⟩

/-- Settles O36: both write nothing and hand the multiplexer the same question, one of them negated. -/
theorem keySkipsAreComplementary : Obligations.KeySkipsAreComplementary := by
  intro s x
  have hskp : exec (.skp x) s = .next (s.goTo (.skipWhen (s.keyIs x))) := rfl
  have hsknp : exec (.sknp x) s = .next (s.goTo (.skipWhen (!s.keyIs x))) := rfl
  obtain ⟨hskpNamed, hskpOther⟩ := pc_execSkp hskp
  obtain ⟨hsknpNamed, hsknpOther⟩ := pc_execSknp hsknp
  exact ⟨decodeWord_encode (i := .skp x) rfl, decodeWord_encode (i := .sknp x) rfl, _, _, hskp, hsknp,
    fun hkey => ⟨hskpNamed hkey, hsknpNamed hkey⟩, fun hkey => ⟨hskpOther hkey, hsknpOther hkey⟩,
    s.changesOnlyPc_goTo _, s.changesOnlyPc_goTo _⟩

/-! ### The event `step` without an instruction -/

/-- A step of a waiting core only looks for a key (R42 step 2). -/
theorem step_of_awaitingKey {s : State} {x : Reg} {key : Option Nibble} {rnd : Byte} {rest : List Event}
    (hfault : s.fault = .none) (hwait : s.wait = .awaitingKey x) (hpending : s.pending = .step key rnd :: rest) :
    step s = .next (((s.consume rest).supply key rnd).awaitKey x) := by
  rw [step_of_pending_step hpending]
  simp only [State.runStep, State.supply_fault, State.consume_fault, hfault, State.supply_wait, State.consume_wait, hwait]

/-- Settles O37: `LD Vx,K` writes `WAIT` alone; a waiting core's step answers what its key says and fetches nothing. -/
theorem waitForKey : Obligations.WaitForKey := by
  intro s x
  refine ⟨⟨decodeWord_encode (i := .ldKey x) rfl, _, rfl, rfl, rfl,
    ((ChangesOnly.refl (fun p => p = .wait) s).setWait rfl _).goTo _⟩, fun rnd rest hfault hwait hp => ?_,
    fun k rnd rest hfault hwait hp => ?_⟩
  · have hstep := step_of_awaitingKey hfault hwait hp
    rw [State.awaitKey_of_key_none rfl] at hstep
    exact ⟨_, hstep, rfl, rfl, s.keepsParts_supply _ rest none rnd⟩
  · have hstep := step_of_awaitingKey hfault hwait hp
    have hkeeps := (s.keepsParts_supply _ rest (some k) rnd).trans
      (((s.consume rest).supply (some k) rnd).changesOnly_awaitKey x).2
    rw [State.awaitKey_of_key_some (k := k) rfl] at hstep hkeeps
    refine ⟨_, hstep, ?_, rfl, rfl, rfl, hkeeps⟩
    rw [State.setWait_getV, State.getV_setV, if_pos rfl, keyByte_toNat]

/-- Settles O43: the decoder's error goes into the latch, and nothing is written besides. -/
theorem unknownWordSetsTheLatch : Obligations.UnknownWordSetsTheLatch := by
  intro s key rnd rest hfault hwait hp hdecode
  have hstep : step s = .next (((s.consume rest).supply key rnd).raise (.unknownInstruction s.pc s.fetch)) :=
    (step_of_pending_step hp).trans
      (State.runStep_of_decodeWord_error (s := (s.consume rest).supply key rnd) hfault hwait hdecode)
  exact ⟨_, hstep, rfl, rfl, (s.keepsParts_supply _ rest key rnd).trans
    ((ChangesOnly.refl (fun p => p = .fault) _).raise rfl _).2⟩

/-- A jump's word is 0x1000 and its address (R73, R80). -/
theorem formatA_jp_eq_add (addr : Addr) : formatA 0x1 addr = 0x1000 + addrWord addr := by
  have haddr := addr.isLt
  apply BitVec.eq_of_toNat_eq
  rw [formatA, BitVec.toNat_append, Nat.shiftLeft_eq, Nat.mul_comm, ← Nat.two_pow_add_eq_or_of_lt haddr, BitVec.toNat_add,
    addrWord_toNat, show (0x1 : Nibble).toNat = 1 from rfl, show (0x1000 : Word).toNat = 0x1000 from rfl]
  omega

theorem addrWord_of_toNat_le {pc : Word} (hpc : pc.toNat ≤ 0xFFF) : addrWord (pc.setWidth 12) = pc := by
  apply BitVec.eq_of_toNat_eq
  rw [addrWord_toNat, BitVec.toNat_setWidth]
  omega

theorem State.runStep_of_selfJump {s : State} (hfault : s.fault = .none) (hwait : s.wait = .running)
    (hpc : s.pc.toNat ≤ 0xFFF) (hfetch : s.fetch = 0x1000 + s.pc) : s.runStep = .next s := by
  have haddr : addrWord (s.pc.setWidth 12) = s.pc := addrWord_of_toNat_le hpc
  have hword : s.fetch = encode (.jp (s.pc.setWidth 12)) := by rw [encode, formatA_jp_eq_add, haddr, hfetch]
  have hdecode : decodeWord s.fetch = .ok (.jp (s.pc.setWidth 12)) := hword ▸ decodeWord_encode rfl
  rw [State.runStep_of_decodeWord_ok hfault hwait hdecode]
  exact congrArg (fun pc => Host.Outcome.next { s with pc := pc }) haddr

/-- Settles O50: the word of a self-jump decodes to a jump to `PC` itself, and a wait without a key answers the state it is in. -/
theorem selfJumpAndUnansweredWaitAreStable : Obligations.SelfJumpAndUnansweredWaitAreStable := by
  intro s key rnd rest hfault hp hstable
  rcases hstable with ⟨hwait, hpc, hfetch⟩ | ⟨x, hwait, rfl⟩
  · exact (step_of_pending_step hp).trans
      (State.runStep_of_selfJump (s := (s.consume rest).supply key rnd) hfault hwait hpc hfetch)
  · rw [step_of_awaitingKey hfault hwait hp, State.awaitKey_of_key_none rfl]
    rfl

/-! ### Ticks -/

theorem timerAfter_timerAfter (b : Byte) (m n : Nat) : timerAfter (timerAfter b m) n = timerAfter b (m + n) := by
  apply BitVec.eq_of_toNat_eq
  simp only [timerAfter_toNat, Nat.sub_sub]

/-- `n` events `tick` in a row are `n` ticks (R211). -/
theorem State.iterate_tick_eq_ticks (s : State) (n : Nat) : State.tick^[n] s = s.ticks n := by
  induction n with
  | zero => simp [State.ticks]
  | succ n ih =>
    rw [Function.iterate_succ_apply', ih, State.tick_eq_ticks]
    simp only [State.ticks, timerAfter_timerAfter]

/-- Settles O39: a tick counts each timer down by one and writes nothing besides. -/
theorem tickCountsBothTimersDown : Obligations.TickCountsBothTimersDown := by
  intro s rest hp
  have hstep : step s = .next ((s.consume rest).ticks 1) := by
    rw [← State.tick_eq_ticks]
    simp only [step, State.transition, hp]
  obtain ⟨hfields, hkeeps⟩ := (s.consume rest).changesOnly_ticks 1
  exact ⟨_, hstep, timerAfter_toNat s.dt 1, timerAfter_toNat s.st 1, rfl, hfields, (s.keepsParts_consume _ rest).trans hkeeps⟩

/-- Settles O40: `LD DT,Vx` and `LD ST,Vx` set the timer to `V[x]`, from which the ticks count. -/
theorem timersCountFromWhatWasSet : Obligations.TimersCountFromWhatWasSet := by
  intro s t x n
  rw [State.iterate_tick_eq_ticks]
  constructor
  · intro h y
    obtain rfl : (s.setDt (s.getV x)).goTo .advance = t := Host.Outcome.next.inj h
    obtain ⟨hresult, -⟩ := State.setV_goTo_spec (((s.setDt (s.getV x)).goTo .advance).ticks n) y (timerAfter (s.getV x) n)
    exact ⟨_, rfl, (congrArg BitVec.toNat hresult).trans (timerAfter_toNat _ n)⟩
  · intro h
    obtain rfl : (s.setSt (s.getV x)).goTo .advance = t := Host.Outcome.next.inj h
    rw [State.buzzer, decide_eq_true_iff, State.ticks_st, timerAfter_toNat, Nat.sub_pos_iff_lt]
    rfl

/-! ### Reset -/

/-- Reset gives every piece of state its value, whatever the environment's fields hold (R36). -/
theorem State.asReset_resetWith (rom : Vector Byte Config.glyphBytes) (capacity : Nat) (pending : List Event)
    (key : Option Nibble) (rnd : Byte) (draws : Nat) :
    State.asReset rom capacity
      { State.resetWith rom capacity with pending := pending, key := key, rnd := rnd, draws := draws } where
  registers r := Vector.getElem_replicate r.isLt
  index := rfl
  pc := rfl
  stackPointer := rfl
  stackSize := List.length_replicate
  stackSlots j hj := List.getElem?_replicate.trans (if_pos hj)
  timers := ⟨rfl, rfl⟩
  glyphs a ha := by
    have hport : portAddr a = a.toNat := Nat.mod_eq_of_lt (ha.trans (by decide))
    exact (congrArg (Memory.unlisted rom) hport).trans (dif_pos ha)
  rest a hglyphs hmem := by
    have hport : portAddr a = a.toNat := Nat.mod_eq_of_lt hmem
    exact State.readByte_resetWith_of_glyphBytes_le rom capacity (hport ▸ hglyphs)
  display px _ py _ := FrameBuffer.pixel_clear px py
  wait := rfl
  fault := rfl

/-- Settles O46: the event reset answers the state of a machine just reset, with its own parameters and its environment. -/
theorem resetGivesEveryPieceItsValue : Obligations.ResetGivesEveryPieceItsValue := by
  refine ⟨State.asReset_resetWith _ _ [] none 0 0, fun s rest hp => ?_⟩
  have hstep : step s = .next (s.consume rest).resetEvent := by simp only [step, State.transition, hp]
  exact ⟨_, hstep, State.asReset_resetWith _ _ rest s.key s.rnd s.draws, rfl, rfl⟩

/-! ### Load -/

theorem State.readByte_loadEvent (s : State) (bytes : List Byte) (a : Word) :
    (s.loadEvent bytes).readByte a =
      if 0x200 ≤ portAddr a then (bytes[portAddr a - 0x200]?).getD (s.readByte a) else s.readByte a :=
  Memory.read_copyFrom s.glyphRom bytes s.mem Config.programBase (portAddr a) (portAddr_lt a)

/-- A byte that fits goes to its place (R41). -/
theorem State.readByte_loadEvent_inside (s : State) {bytes : List Byte} {k : Nat} {b : Byte} (hb : bytes[k]? = some b)
    (hk : k < 3584) : (s.loadEvent bytes).readByte (BitVec.ofNat 16 (0x200 + k)) = b := by
  have hport : portAddr (BitVec.ofNat 16 (0x200 + k)) = 0x200 + k := by
    rw [portAddr, BitVec.toNat_ofNat, Config.memSize]
    omega
  rw [State.readByte_loadEvent, hport, if_pos (Nat.le_add_right ..), Nat.add_sub_cancel_left, hb, Option.getD_some]

/-- A load leaves what is below the program and from its end on (R41). -/
theorem State.readByte_loadEvent_outside (s : State) {bytes : List Byte} {a : Word} (ha : a.toNat < 4096)
    (hout : a.toNat < 0x200 ∨ 0x200 + bytes.length ≤ a.toNat) : (s.loadEvent bytes).readByte a = s.readByte a := by
  have hport : portAddr a = a.toNat := Nat.mod_eq_of_lt ha
  rw [State.readByte_loadEvent, hport]
  rcases hout with hbelow | habove
  · rw [if_neg (Nat.not_le.mpr hbelow)]
  · rw [List.getElem?_eq_none (by omega), Option.getD_none, ite_self]

/-- Settles O48: a load in its period copies the bytes, reaching no address twice; at another time it is refused. -/
theorem loadCopiesAndTruncates : Obligations.LoadCopiesAndTruncates := by
  intro s bytes rest hp
  have hstep : step s = (s.consume rest).tryLoad bytes := by simp only [step, State.transition, hp]
  refine ⟨fun hopen => ?_, fun hclosed => ?_⟩
  · refine ⟨(s.consume rest).loadEvent bytes, hstep.trans (if_pos hopen),
      fun k b hb hk => (s.consume rest).readByte_loadEvent_inside hb hk,
      fun a ha hout => (s.consume rest).readByte_loadEvent_outside ha hout, rfl, ⟨rfl, rfl, rfl, rfl, rfl, rfl⟩,
      (s.keepsParts_consume _ rest).trans ((s.consume rest).keepsPartsBut_loadEvent bytes)⟩
  · exact hstep.trans (if_neg (by simp [hclosed]))

end Sys2Proof.Machine
end

section
/-! Memory as data and as the port shows it (R52, R55), the ALU with a flag from exchanged and shifted operands (R139 to
R141), and the arithmetic of `I` (R152, R153). -/

namespace Sys2Proof.Machine

/-! ### The canonical form -/

/-- In a canonical memory the byte listed at an address is the one that is looked up there. -/
theorem Memory.lookup_eq_some_iff {m : Memory} (hsorted : m.Pairwise fun c d => c.1 < d.1) {a : Nat} {b : Byte} :
    Memory.lookup a m = some b ↔ (a, b) ∈ m := by
  induction m with
  | nil => simp [Memory.lookup]
  | cons d m ih =>
    rw [List.pairwise_cons] at hsorted
    obtain ⟨hfirst, hrest⟩ := hsorted
    by_cases hd : d.1 = a
    · have hnot : (a, b) ∉ m := fun hmem => (hfirst _ hmem).ne hd
      simp [Memory.lookup, hd, hnot, Prod.ext_iff, eq_comm]
    · have hne : (a, b) ≠ d := fun e => hd (by rw [← e])
      simp [Memory.lookup, hd, hne, ih hrest]

/-- What a canonical memory lists is just what reads otherwise than after reset. -/
theorem Memory.mem_iff_read {rom : Vector Byte Config.glyphBytes} {m : Memory} (hwf : Memory.wf rom m) (c : Host.Cell) :
    c ∈ m ↔ c.1 < Config.memSize ∧ Memory.read rom m c.1 = c.2 ∧ c.2 ≠ Memory.unlisted rom c.1 := by
  obtain ⟨hsorted, hcells⟩ := hwf
  have hlookup : Memory.lookup c.1 m = some c.2 ↔ c ∈ m := Memory.lookup_eq_some_iff hsorted
  constructor
  · intro hc
    obtain ⟨hlt, hne⟩ := hcells c hc
    exact ⟨hlt, by rw [Memory.read, hlookup.mpr hc, Option.getD_some], hne⟩
  · rintro ⟨-, hread, hne⟩
    rw [← hlookup]
    rw [Memory.read] at hread
    cases hl : Memory.lookup c.1 m with
    | none =>
      rw [hl, Option.getD_none] at hread
      exact absurd hread.symm hne
    | some b =>
      rw [hl, Option.getD_some] at hread
      rw [hread]

/-- Settles O32: memories that read alike list the same cells, and a strictly rising list is fixed by its members. -/
theorem equalReadsMeanEqualMemory : Obligations.EqualReadsMeanEqualMemory := by
  intro rom m m' hwf hwf' hreads
  have hmem : ∀ c, c ∈ m ↔ c ∈ m' := fun c => by
    rw [Memory.mem_iff_read hwf, Memory.mem_iff_read hwf']
    exact and_congr_right fun hlt => by rw [hreads c.1 hlt]
  have : Std.Irrefl fun c d : Host.Cell => c.1 < d.1 := ⟨fun c => lt_irrefl c.1⟩
  have : Std.Antisymm fun c d : Host.Cell => c.1 < d.1 := ⟨fun _ _ hcd hdc => absurd hdc hcd.not_gt⟩
  exact hwf.1.eq_of_mem_iff hwf'.1 hmem

/-- Settles O30: the two bytes are joined high byte first, and the port looks at the low 12 bits of an address. -/
theorem fetchIsBigEndianAndWraps : Obligations.FetchIsBigEndianAndWraps := fun s =>
  ⟨wordOfBytes_toNat .., fun _ _ hport => congrArg (Memory.read s.glyphRom s.mem) hport⟩

/-! ### Results with a flag -/

/-- Settles O22: the operands of `SUB` exchanged. -/
theorem reverseSubtractSetsNoBorrow : Obligations.ReverseSubtractSetsNoBorrow := by
  intro s x y
  obtain ⟨hresult, hflag, hrest⟩ := s.setVThenFlag_goTo_spec x (diffByte (s.getV y) (s.getV x))
    (noBorrowFlag (s.getV y) (s.getV x))
  exact ⟨decodeWord_encode (i := .subnReg x y) rfl, _, rfl,
    fun hx => (congrArg BitVec.toNat (hresult hx)).trans (diffByte_toNat_mod ..), hflag.trans (noBorrowFlag_eq ..), hrest⟩

/-- Settles O23: the shifted byte is written before the bit shifted out; the decoder does not look at the `y` field. -/
theorem shiftsSetTheBitShiftedOut : Obligations.ShiftsSetTheBitShiftedOut := by
  intro s x y
  constructor
  · obtain ⟨hresult, hflag, hrest⟩ := s.setVThenFlag_goTo_spec x (shrByte (s.getV x)) (shrFlag (s.getV x))
    exact ⟨by simp [decodeWord], _, rfl, fun hx => (congrArg BitVec.toNat (hresult hx)).trans (shrByte_toNat _),
      (congrArg BitVec.toNat hflag).trans (shrFlag_toNat _), hrest⟩
  · obtain ⟨hresult, hflag, hrest⟩ := s.setVThenFlag_goTo_spec x (shlByte (s.getV x)) (shlFlag (s.getV x))
    exact ⟨by simp [decodeWord], _, rfl, fun hx => (congrArg BitVec.toNat (hresult hx)).trans (shlByte_toNat _),
      (congrArg BitVec.toNat hflag).trans (shlFlag_toNat _), hrest⟩

/-! ### The arithmetic of `I` -/

/-- An instruction that writes `I` alone (R151 to R153). -/
theorem State.changesOnly_setI_goTo (s : State) (a : Word) (n : NextPc) :
    ChangesOnly (fun p => p = .index) s ((s.setI a).goTo n) :=
  ((ChangesOnly.refl (fun p => p = .index) s).setI rfl a).goTo n

/-- Settles O26: a 16-bit sum wraps, and five times a byte fits 16 bits; both write `I` alone. -/
theorem indexArithmetic : Obligations.IndexArithmetic := by
  intro s x
  have hsum : (s.i + byteWord (s.getV x)).toNat = (s.i.toNat + (s.getV x).toNat) % 65536 := by
    rw [BitVec.toNat_add, byteWord_toNat]
  exact ⟨⟨decodeWord_encode (i := .addI x) rfl, _, rfl, hsum, rfl, s.changesOnly_setI_goTo _ _⟩,
    decodeWord_encode (i := .ldGlyph x) rfl, _, rfl, glyphAddr_toNat (s.getV x), rfl, s.changesOnly_setI_goTo _ _⟩

end Sys2Proof.Machine
end
